-- ==== Sys2Proof/Word.lean ====
section
/-! DEFINITION. The widths of the curve-transfer engine (00_scope R10, R12). -/

namespace Sys2Proof

/-- A byte (00_scope R11). -/
abbrev Byte := BitVec 8

/-- An unsigned 16-bit value, `u16` (00_scope R12). -/
abbrev Half := BitVec 16

/-- A 32-bit word: the width of every device endpoint and of a setpoint (00_scope R10). -/
abbrev Word := BitVec 32

/-- The bit pattern of an IEEE 754 binary64 value, `f64` (00_scope R12). -/
abbrev Real64 := BitVec 64

end Sys2Proof
end

