-- ==== Sys2Proof/Config.lean ====
section
/-! DEFINITION. The parameters of an engine (00_scope R9) and the values the spec leaves open. An `opaque` constant
has no body: nothing can evaluate it, so what is proved holds whatever it is. -/

namespace Sys2Proof

/-- The parameters of 00_scope R9 that the spec leaves OPEN or overridable, fixed for an instance (R44, R345).
`posRounds` stands for POS_ROUND: the roundings of the scaled positions it lists, in its order; every other scaled
position is rounded by floor, so any total function is reached on any finite set of positions (log 4). `maxPoints`
is the "maximum point count" of the projection (41_unit_conversions R168). -/
structure Params where
  timeoutCycles   : Nat
  baseModeWrite   : Nat
  baseModeRead    : Nat
  initControlWord : Word
  maxCurveId      : Nat
  maxSetpoints    : Nat
  dataOffset      : Half
  posRounds       : List (Real64 × Int)
  maxPoints       : Nat
  deriving DecidableEq, Repr

/-- The ranges of 00_scope R9; a record outside them is outside the model's domain (93_implementation_defined U22). -/
def Params.wf (p : Params) : Bool :=
  decide (p.timeoutCycles ≤ 2 ^ 32 - 2) && decide (p.baseModeWrite ≤ 2 ^ 24 - 4) &&
  decide (p.baseModeRead ≤ 2 ^ 24 - 4) && decide (p.baseModeWrite ≠ p.baseModeRead) &&
  decide (1 ≤ p.maxCurveId) && decide (p.maxCurveId ≤ 65535) &&
  decide (1 ≤ p.maxSetpoints) && decide (p.maxSetpoints ≤ 65535)

namespace Config

/-- TIMEOUT_CYCLES, 0 .. 2^32 - 2, OPEN (00_scope R9, D4). -/
opaque timeoutCycles : Fin 4294967295
/-- BASE_MODE_WRITE, 0 .. 2^24 - 4, OPEN (00_scope R9, D5). -/
opaque baseModeWrite : Fin 16777213
/-- How far BASE_MODE_READ lies above BASE_MODE_WRITE, less one, modulo the range: it makes the two differ, as
00_scope R9 requires, and leaves every such pair possible (D5). -/
opaque baseModeGap : Fin 16777212
/-- INIT_CONTROL_WORD, OPEN (00_scope R9, D6). -/
opaque initControlWord : Word
/-- MAX_CURVE_ID less one, OPEN (00_scope R9, D7). -/
opaque maxCurveIdLess1 : Fin 65535
/-- MAX_SETPOINTS less one, OPEN (00_scope R9, D9). -/
opaque maxSetpointsLess1 : Fin 65535
/-- POS_ROUND, OPEN (00_scope R9, D26). -/
opaque posRounds : List (Real64 × Int)
/-- The maximum point count of the projection, not in the source (91_not_in_source N16). -/
opaque maxPoints : Nat

/-- The formula of the read-back projection, which is not in the source (41_unit_conversions R168, N14): a free
value of the resolution, the offset, whether the sign is flipped, and the position. -/
opaque projectPoint : Real64 → Real64 → Bool → Real64 → Real64

/-- What RESET leaves in a byte of DESC, by the number of the reset and the address: "unspecified" (10_state R51). -/
opaque resetDesc : Nat → Nat → Byte
/-- What RESET leaves in a byte of SP, by the number of the reset and the address (10_state R51). -/
opaque resetSp : Nat → Nat → Byte
/-- What RESET leaves in `rx_pending`, by the number of the reset (10_state R51). -/
opaque resetPending : Nat → Word
/-- What RESET leaves in the host's field values, by the number of the reset and the offset of the byte in the record:
"after reset that is unspecified" (70_reset_and_hazards R346). -/
opaque resetField : Nat → Nat → Byte

/-- The parameters an instance has after reset: the open constants, and DATA_OFFSET at the spec's own choice 70
(00_scope R9, D8). -/
def params : Params where
  timeoutCycles := timeoutCycles.val
  baseModeWrite := baseModeWrite.val
  baseModeRead := (baseModeWrite.val + 1 + baseModeGap.val) % 16777213
  initControlWord := initControlWord
  maxCurveId := maxCurveIdLess1.val + 1
  maxSetpoints := maxSetpointsLess1.val + 1
  dataOffset := 70
  posRounds := posRounds
  maxPoints := maxPoints

end Config
end Sys2Proof
end

