-- ==== Sys2Proof/Syntax.lean ====
section
/-! DEFINITION. The operations of the engine: one constructor of `Instr` per row of spec/opcode_table.json, and the
operand types they take. A script event is an operation, a host write (30_encoding R117) or a host read (60_exceptions
R325). -/

namespace Sys2Proof

/-- The field record of a curve descriptor (40_descriptor_codec R140). The padding is not a field. -/
structure Fields where
  dataOffset   : Half
  objectType   : Half
  numSetpoints : Half
  dataTypeSize : Half
  name         : Vector Byte 22
  curveId      : Half
  xLength      : Word
  xDimUuid     : Half
  yDimUuid     : Half
  wizardType   : Half
  wizardParams : Vector Word 7
  deriving DecidableEq, Repr

/-- What the device endpoints give in one bus cycle: the two reads with their `ok` results, and the `ok` result of
a write to each write endpoint (00_scope R14, 43_step_sequencer R196, 20_memory R84). -/
structure Cycle where
  statusOk  : Bool
  status    : Word
  valueOk   : Bool
  value     : Word
  indexWr   : Bool
  valueWr   : Bool
  controlWr : Bool
  deriving DecidableEq, Repr

/-- A host request with its arguments (42_requests R175 to R177). -/
inductive Request where
  | write (id count : Half) (xlenOk : Bool)
  | read (id : Half)
  deriving DecidableEq, Repr

/-- The causes `raise Fail` can carry (60_exceptions R301, values 1 to 5). -/
inductive Cause where
  | timeout | deviceError | overflow | responseSize | unknownState
  deriving DecidableEq, Repr

/-- What the caller supplies to the read-back projection (41_unit_conversions R168): whether the parameter lookup
succeeded, the resolution and the offset where it gave one, and the direction. -/
structure ProjectArgs where
  lookupOk   : Bool
  resolution : Option Real64
  offset     : Option Real64
  direction  : Word
  deriving DecidableEq, Repr

/-- The operations, one constructor per row of spec/opcode_table.json, in the table's order. Operands are the fields
of the row's word and what the environment or the host supplies to the operation; `ok` is the result of the
operation's endpoint write (00_scope R14). -/
inductive Instr where
  -- control words: the word's fields (30_encoding R101 to R103)
  | cwInit (w : Word) (ok : Bool)
  | cwSendcmdW (m : BitVec 24) (ok : Bool)
  | cwSendcmdR (m : BitVec 24) (ok : Bool)
  | cwCurveinfoW (m : BitVec 24) (t ok : Bool)
  | cwCurveinfoR (m : BitVec 24) (t ok : Bool)
  | cwSetpointsW (m : BitVec 24) (t ok : Bool)
  | cwSetpointsR (m : BitVec 24) (t ok : Bool)
  -- status-word classes: the word's free fields (44_toggle_status_decode R241 to R244)
  | swInitAdv
  | swInitSteady
  | swInitErr (u : Half) (c : Byte)
  | swInitNomatch (sw : Word)
  | swSendcmdAdv
  | swSendcmdSteady
  | swSendcmdErr (u : Half) (c : Byte)
  | swSendcmdNomatch (sw : Word)
  | swCurveinfoAdv (t : Bool)
  | swCurveinfoSteady (t : Bool)
  | swCurveinfoErr (u : Half) (c : Byte) (t : Bool)
  | swCurveinfoNomatch (sw : Word)
  | swSetpointsAdv (t : Bool)
  | swSetpointsSteady (t : Bool)
  | swSetpointsErr (u : Half) (c : Byte) (t : Bool)
  | swSetpointsNomatch (sw : Word)
  -- data words and the record (30_encoding R108 to R112)
  | iw (i : Half) (ok : Bool)
  | bw (n : BitVec 14) (ok : Bool)
  | dw (d : Word) (ok : Bool)
  | pw (p : Word) (ok : Bool)
  | record (f : Fields) (pad0 pad1 : Byte)
  -- descriptor codec (40_descriptor_codec)
  | pack (f : Fields)
  | unpack
  | setName (s : Option (List Byte))
  | blocksize (n : Half)
  | dump
  -- unit conversions (41_unit_conversions)
  | xlenEncode (n : BitVec 64) (dt : Real64)
  | xlenDecode (x : Word) (n : Half)
  | posEncode (i : Half) (p : Real64)
  | posDecode (w : Word)
  | project (a : ProjectArgs)
  -- host requests (42_requests)
  | reqWrite (id count : Half) (xlenOk : Bool)
  | reqRead (id : Half)
  | sessionInit
  | rejBusy (r : Request)
  | rejInvalidId (r : Request)
  | rejInvalidDuration (r : Request)
  | rejInvalidCount (r : Request)
  | sinkRead
  -- the step and its arms (43_step_sequencer)
  | step (c : Cycle)
  | stepInit
  | stepSendcmd (indexOk valueOk : Bool)
  | stepCurveinfo
  | stepSetpoints
  | stepFinished
  | stepUnknown
  -- toggle and classifier (44_toggle_status_decode)
  | toggleSet1
  | toggleFlipCurveinfo
  | toggleReset0
  | toggleFlipSetpoints
  | classify (sw : Word)
  -- word serializer (45_word_serializer)
  | txLoadDesc
  | txLoadSp
  | txNext (ok : Bool)
  | rxArmDesc
  | rxArmSp
  | rxPush (vin : Word)
  | spAppend
  -- timeout and error detector, failure entry (46_timeout_error, 60_exceptions R310)
  | tmoTick
  | tmoExpire
  | tmoArm
  | errDevice (sw : Word)
  | fail (cause : Cause) (code : Byte)
  -- scheduler (47_cycle_scheduler) and reset (70_reset_and_hazards R340)
  | tick (c : Cycle) (granted : Bool)
  | tickIdle
  | lockAcq (granted : Bool)
  | lockRel
  | reset
  deriving DecidableEq, Repr

/-- The script lines `FIELD` and `SP` (30_encoding R117): a host write of one descriptor field value, of the raw
name, of one setpoint word, or of `sp_count` (42_requests R188, 93_implementation_defined U15). They are no rows of
the opcode table. -/
inductive HostWrite where
  | objectType (v : Half)
  | nameRaw (v : Vector Byte 22)
  | xLength (v : Word)
  | xDimUuid (v : Half)
  | yDimUuid (v : Half)
  | wizardType (v : Half)
  | wizardParam (j : Fin 7) (v : Word)
  | setpoint (i : Half) (v : Word)
  | setpointCount (v : Half)
  deriving DecidableEq, Repr

/-- A host read of the data registers of 10_state section 3 (60_exceptions R325: the host port may "read everything of
10_state.md sections 3 and 4"): a word of DESC, a word of SP, or the registers beside the two memories. They are no
rows of the opcode table; section 4 is read by SINK.READ. -/
inductive HostRead where
  | descWord (k : Fin 18)
  | setpoint (i : Half)
  | dataRegs
  deriving DecidableEq, Repr

/-- One event of a script. -/
inductive Event where
  | instr (i : Instr)
  | host (w : HostWrite)
  | read (r : HostRead)
  deriving DecidableEq, Repr

end Sys2Proof
end

