-- ==== Sys2Proof/WellFormed.lean ====
section
/-! DEFINITION. Which operations have an encoding: the conditions spec/opcode_table.json puts on a word beside its
fixed bits, and the length a frame can carry. -/

namespace Sys2Proof

/-- The error code byte is "any value but 0" (opcode table, class ERR; 44_toggle_status_decode R236). -/
def errCodeOk (c : Byte) : Bool := c != 0

/-- A word of class ERR is not the steady code, whose upper half is 0 and code byte 4 (R243, R244). -/
def notSteadyCode (u : Half) (c : Byte) : Bool := !(u == 0 && c == 4)

/-- A word that belongs to neither ADV nor ERR of a state whose two codes equal the byte `echo` (R241, R242). -/
def noClassOf (echo : Byte) (sw : Word) : Bool :=
  !(sw == echo.setWidth 32) && !(sw.extractLsb' 0 8 == echo && sw.extractLsb' 8 8 != 0)

/-- A name a frame can carry: its length is a 16-bit number. -/
def nameLengthOk : Option (List Byte) → Bool
  | none => true
  | some s => decide (s.length < 65536)

/-- An operation that has an encoding. -/
def Instr.wf : Instr → Bool
  | .swInitErr _ c => errCodeOk c
  | .swInitNomatch sw => noClassOf 0x0F sw
  | .swSendcmdErr _ c => errCodeOk c
  | .swSendcmdNomatch sw => noClassOf 0x01 sw
  | .swCurveinfoErr u c _ => errCodeOk c && notSteadyCode u c
  | .swSetpointsErr u c _ => errCodeOk c && notSteadyCode u c
  | .setName s => nameLengthOk s
  | .cwInit _ _ => true
  | .cwSendcmdW _ _ => true
  | .cwSendcmdR _ _ => true
  | .cwCurveinfoW _ _ _ => true
  | .cwCurveinfoR _ _ _ => true
  | .cwSetpointsW _ _ _ => true
  | .cwSetpointsR _ _ _ => true
  | .swInitAdv => true
  | .swInitSteady => true
  | .swSendcmdAdv => true
  | .swSendcmdSteady => true
  | .swCurveinfoAdv _ => true
  | .swCurveinfoSteady _ => true
  | .swCurveinfoNomatch _ => true
  | .swSetpointsAdv _ => true
  | .swSetpointsSteady _ => true
  | .swSetpointsNomatch _ => true
  | .iw _ _ => true
  | .bw _ _ => true
  | .dw _ _ => true
  | .pw _ _ => true
  | .record _ _ _ => true
  | .pack _ => true
  | .unpack => true
  | .blocksize _ => true
  | .dump => true
  | .xlenEncode _ _ => true
  | .xlenDecode _ _ => true
  | .posEncode _ _ => true
  | .posDecode _ => true
  | .project _ => true
  | .reqWrite _ _ _ => true
  | .reqRead _ => true
  | .sessionInit => true
  | .rejBusy _ => true
  | .rejInvalidId _ => true
  | .rejInvalidDuration _ => true
  | .rejInvalidCount _ => true
  | .sinkRead => true
  | .step _ => true
  | .stepInit => true
  | .stepSendcmd _ _ => true
  | .stepCurveinfo => true
  | .stepSetpoints => true
  | .stepFinished => true
  | .stepUnknown => true
  | .toggleSet1 => true
  | .toggleFlipCurveinfo => true
  | .toggleReset0 => true
  | .toggleFlipSetpoints => true
  | .classify _ => true
  | .txLoadDesc => true
  | .txLoadSp => true
  | .txNext _ => true
  | .rxArmDesc => true
  | .rxArmSp => true
  | .rxPush _ => true
  | .spAppend => true
  | .tmoTick => true
  | .tmoExpire => true
  | .tmoArm => true
  | .errDevice _ => true
  | .fail _ _ => true
  | .tick _ _ => true
  | .tickIdle => true
  | .lockAcq _ => true
  | .lockRel => true
  | .reset => true

end Sys2Proof
end

