-- ==== Sys2Proof/Decode.lean ====
section
/-! DEFINITION. Byte order, the words of the formats, the record layout, and the frames of a script: decoder and
encoder. The hardware fetches no instructions (20_memory R91); the words of the seven formats are the spec's
(30_encoding R100), the frame around them (one tag byte, the row's place in spec/opcode_table.json, then the word or
the operands) is the model's own (log 1). -/

namespace Sys2Proof

/-! ### Byte order (20_memory R72, R74; 40_descriptor_codec R140) -/

/-- `le16` of 40_descriptor_codec R140. -/
def le16 (v : Half) : List Byte := [v.extractLsb' 0 8, v.extractLsb' 8 8]

/-- `le32` of 40_descriptor_codec R140. -/
def le32 (v : Word) : List Byte :=
  [v.extractLsb' 0 8, v.extractLsb' 8 8, v.extractLsb' 16 8, v.extractLsb' 24 8]

/-- Eight bytes, low byte first. -/
def le64 (v : BitVec 64) : List Byte := le32 (v.extractLsb' 0 32) ++ le32 (v.extractLsb' 32 32)

/-- Two bytes joined, the first the less significant (20_memory R74). -/
def join16 (b0 b1 : Byte) : Half := b1 ++ b0

/-- Four bytes joined, the first the least significant (20_memory R72). -/
def join32 (b0 b1 b2 b3 : Byte) : Word := b3 ++ b2 ++ b1 ++ b0

/-- Two words joined, the first the less significant. -/
def join64 (w0 w1 : Word) : BitVec 64 := w1 ++ w0

/-- The value of a one-bit field in a wider word (30_encoding R107(a)). -/
def bit (n : Nat) (t : Bool) : BitVec n := if t then 1 else 0

/-! ### The words of the formats (30_encoding) -/

/-- The low byte of a control word: bits 7:3 zero, `phase` in bits 2:1, `t` in bit 0 (30_encoding R101). -/
def cwLow (phase : BitVec 2) (t : Bool) : Byte := (0 : BitVec 5) ++ phase ++ bit 1 t

/-- Format CW: `mode` in bits 31:8 over the low byte (30_encoding R101). -/
def cwBits (m : BitVec 24) (phase : BitVec 2) (t : Bool) : Word := m ++ cwLow phase t

/-- Format SW: `upper` in bits 31:16, `code` in bits 15:8, `echo` in bits 7:0 (30_encoding R104). -/
def swBits (u : Half) (c echo : Byte) : Word := u ++ c ++ echo

/-- The echo byte of the two data phases: `0x02 + t` and `0x04 + t` (30_encoding R105). -/
def echoOf (base : Byte) (t : Bool) : Byte := base + bit 8 t

/-- Format IW: the curve id, zero-extended (30_encoding R108). -/
def iwBits (i : Half) : Word := i.setWidth 32

/-- Format BW: the count in bits 31:18, bits 17:16 zero, 70 in bits 15:0 (30_encoding R109). -/
def bwBits (n : BitVec 14) : Word := n ++ (0 : BitVec 2) ++ (70 : Half)

/-- Bits 31:16 of a word. -/
def upper (w : Word) : Half := w.extractLsb' 16 16
/-- Bits 15:8 of a word: the "high byte" of a status word (00_scope R11, 30_encoding R104). -/
def codeByte (w : Word) : Byte := w.extractLsb' 8 8
/-- Bits 7:0 of a word: the "low byte" (00_scope R11). -/
def lowByte (w : Word) : Byte := w.extractLsb' 0 8

/-- The 70 bytes of the fields of a record, in the order and at the offsets of 30_encoding R110. -/
def Fields.bytes (f : Fields) : List Byte :=
  le16 f.dataOffset ++ le16 f.objectType ++ le16 f.numSetpoints ++ le16 f.dataTypeSize ++
  f.name.toList ++ le16 f.curveId ++ le32 f.xLength ++ le16 f.xDimUuid ++ le16 f.yDimUuid ++
  le16 f.wizardType ++ f.wizardParams.toList.flatMap le32

/-! ### Reading bytes -/

/-- Why a byte string is no frame. -/
inductive Reject where
  /-- There is no byte. -/
  | noFrame
  /-- The tag names no row, no host write and no host read. -/
  | unknownTag (tag : Byte)
  /-- The bytes end inside the frame. -/
  | short
  /-- A one-bit operand is neither 0 nor 1. -/
  | badBit (b : Byte)
  /-- A selector byte names no choice. -/
  | badChoice (b : Byte)
  /-- The word does not have the bits its row fixes. -/
  | badWord (w : Word)
  deriving DecidableEq, Repr

/-- A reader takes bytes from the front and answers a value and the rest, or why it cannot. -/
abbrev Reader (α : Type) := List Byte → Except Reject (α × List Byte)

/-- Read nothing. -/
def rdPure {α : Type} (a : α) : Reader α := fun bs => .ok (a, bs)

/-- Reject. -/
def rdFail {α : Type} (r : Reject) : Reader α := fun _ => .error r

/-- Read one thing, then another that may depend on it. -/
def rdThen {α β : Type} (p : Reader α) (f : α → Reader β) : Reader β := fun bs =>
  match p bs with
  | .ok (a, rest) => f a rest
  | .error r => .error r

/-- One byte. -/
def rdByte : Reader Byte
  | [] => .error .short
  | b :: rest => .ok (b, rest)

/-- A one-bit operand: a byte 0 or 1. -/
def rdBit : Reader Bool :=
  rdThen rdByte fun b => if b = 0 then rdPure false else if b = 1 then rdPure true else rdFail (.badBit b)

/-- Two bytes, low byte first. -/
def rdHalf : Reader Half := rdThen rdByte fun b0 => rdThen rdByte fun b1 => rdPure (join16 b0 b1)

/-- Four bytes, low byte first. -/
def rdWord : Reader Word :=
  rdThen rdByte fun b0 => rdThen rdByte fun b1 => rdThen rdByte fun b2 => rdThen rdByte fun b3 =>
  rdPure (join32 b0 b1 b2 b3)

/-- Eight bytes, low byte first. -/
def rdLong : Reader (BitVec 64) := rdThen rdWord fun w0 => rdThen rdWord fun w1 => rdPure (join64 w0 w1)

/-- A vector of `n` things, the first first. -/
def rdVector {α : Type} (p : Reader α) : (n : Nat) → Reader (Vector α n)
  | 0 => rdPure #v[]
  | n + 1 => rdThen (rdVector p n) fun v => rdThen p fun a => rdPure (v.push a)

/-- A list of `n` bytes. -/
def rdList : Nat → Reader (List Byte)
  | 0 => rdPure []
  | n + 1 => rdThen rdByte fun b => rdThen (rdList n) fun l => rdPure (b :: l)

/-- An operand that may be absent: a presence bit, then the operand. -/
def rdOption {α : Type} (p : Reader α) : Reader (Option α) :=
  rdThen rdBit fun present => if present then rdThen p fun a => rdPure (some a) else rdPure none

/-- The fields of a record, at the offsets of 30_encoding R110. -/
def rdFields : Reader Fields :=
  rdThen rdHalf fun dataOffset => rdThen rdHalf fun objectType => rdThen rdHalf fun numSetpoints =>
  rdThen rdHalf fun dataTypeSize => rdThen (rdVector rdByte 22) fun name => rdThen rdHalf fun curveId =>
  rdThen rdWord fun xLength => rdThen rdHalf fun xDimUuid => rdThen rdHalf fun yDimUuid =>
  rdThen rdHalf fun wizardType => rdThen (rdVector rdWord 7) fun wizardParams =>
  rdPure { dataOffset, objectType, numSetpoints, dataTypeSize, name, curveId, xLength, xDimUuid, yDimUuid,
           wizardType, wizardParams }

/-- The operands of a step. -/
def rdCycle : Reader Cycle :=
  rdThen rdBit fun statusOk => rdThen rdWord fun status => rdThen rdBit fun valueOk => rdThen rdWord fun value =>
  rdThen rdBit fun indexWr => rdThen rdBit fun valueWr => rdThen rdBit fun controlWr =>
  rdPure { statusOk, status, valueOk, value, indexWr, valueWr, controlWr }

/-- A request: selector 0 write, 1 read (the numbers of `dir`, 10_state R23). -/
def rdRequest : Reader Request :=
  rdThen rdByte fun k =>
    if k = 0 then
      rdThen rdHalf fun id => rdThen rdHalf fun count => rdThen rdBit fun ok => rdPure (.write id count ok)
    else if k = 1 then rdThen rdHalf fun id => rdPure (.read id)
    else rdFail (.badChoice k)

/-- A failure cause, by its number in 60_exceptions R301. -/
def rdCause : Reader Cause :=
  rdThen rdByte fun k =>
    if k = 1 then rdPure .timeout else if k = 2 then rdPure .deviceError else if k = 3 then rdPure .overflow
    else if k = 4 then rdPure .responseSize else if k = 5 then rdPure .unknownState else rdFail (.badChoice k)

/-- The operands of PROJECT. -/
def rdProjectArgs : Reader ProjectArgs :=
  rdThen rdBit fun lookupOk => rdThen (rdOption rdLong) fun resolution => rdThen (rdOption rdLong) fun offset =>
  rdThen rdWord fun direction => rdPure { lookupOk, resolution, offset, direction }

/-- The operand of SET_NAME: absent, or a length and the bytes. -/
def rdName : Reader (Option (List Byte)) :=
  rdOption (rdThen rdHalf fun n => rdList n.toNat)

/-! ### Decoding a frame -/

/-- A control word whose low byte is fixed (rows CW.SENDCMD.*), then the write result. -/
def rdCwFixed (low : Byte) (mk : BitVec 24 → Bool → Instr) : Reader Instr :=
  rdThen rdWord fun w => rdThen rdBit fun ok =>
    if lowByte w = low then rdPure (mk (w.extractLsb' 8 24) ok) else rdFail (.badWord w)

/-- A control word whose low byte is fixed but for the toggle (rows CW.CURVEINFO.*, CW.SETPOINTS.*). -/
def rdCwToggle (phase : BitVec 2) (mk : BitVec 24 → Bool → Bool → Instr) : Reader Instr :=
  rdThen rdWord fun w => rdThen rdBit fun ok =>
    if lowByte w = cwLow phase false then rdPure (mk (w.extractLsb' 8 24) false ok)
    else if lowByte w = cwLow phase true then rdPure (mk (w.extractLsb' 8 24) true ok)
    else rdFail (.badWord w)

/-- A status word that is one fixed number. -/
def rdSwExact (v : Word) (i : Instr) : Reader Instr :=
  rdThen rdWord fun w => if w = v then rdPure i else rdFail (.badWord w)

/-- A status word that is a fixed number plus the toggle. -/
def rdSwToggle (base : Word) (mk : Bool → Instr) : Reader Instr :=
  rdThen rdWord fun w =>
    if w = base then rdPure (mk false) else if w = base + 1 then rdPure (mk true) else rdFail (.badWord w)

/-- A status word of class ERR of a state whose codes are equal. -/
def rdSwErr (echo : Byte) (mk : Half → Byte → Instr) : Reader Instr :=
  rdThen rdWord fun w =>
    if lowByte w = echo ∧ errCodeOk (codeByte w) then rdPure (mk (upper w) (codeByte w)) else rdFail (.badWord w)

/-- A status word of class ERR of a data phase. -/
def rdSwErrToggle (base : Byte) (mk : Half → Byte → Bool → Instr) : Reader Instr :=
  rdThen rdWord fun w =>
    if errCodeOk (codeByte w) && notSteadyCode (upper w) (codeByte w) then
      if lowByte w = echoOf base false then rdPure (mk (upper w) (codeByte w) false)
      else if lowByte w = echoOf base true then rdPure (mk (upper w) (codeByte w) true)
      else rdFail (.badWord w)
    else rdFail (.badWord w)

/-- A status word of class NOMATCH of a state whose codes are equal. -/
def rdSwNomatch (echo : Byte) (mk : Word → Instr) : Reader Instr :=
  rdThen rdWord fun w => if noClassOf echo w then rdPure (mk w) else rdFail (.badWord w)

/-- A word alone, as the status port gives it: the row its bits name. The status codes come first, since "the only
decoder in the hardware classifies the status word" (30_encoding R113); the echo byte names the state waited in
(R105, R106). Then BW and IW by their fixed bits (R109, R108). The bits of the other rows name no single row. -/
def decodeBare (w : Word) : Option Instr :=
  if lowByte w = 0x0F then
    some (if w = 0x0F then .swInitAdv
      else if errCodeOk (codeByte w) then .swInitErr (upper w) (codeByte w) else .swInitNomatch w)
  else if lowByte w = 0x01 then
    some (if w = 0x01 then .swSendcmdAdv
      else if errCodeOk (codeByte w) then .swSendcmdErr (upper w) (codeByte w) else .swSendcmdNomatch w)
  else if lowByte w = 0x02 ∨ lowByte w = 0x03 then
    some (if w = 0x02 then .swCurveinfoAdv false else if w = 0x03 then .swCurveinfoAdv true
      else if w = 0x402 then .swCurveinfoSteady false else if w = 0x403 then .swCurveinfoSteady true
      else if errCodeOk (codeByte w) then .swCurveinfoErr (upper w) (codeByte w) (decide (lowByte w = 0x03))
      else .swCurveinfoNomatch w)
  else if lowByte w = 0x04 ∨ lowByte w = 0x05 then
    some (if w = 0x04 then .swSetpointsAdv false else if w = 0x05 then .swSetpointsAdv true
      else if w = 0x404 then .swSetpointsSteady false else if w = 0x405 then .swSetpointsSteady true
      else if errCodeOk (codeByte w) then .swSetpointsErr (upper w) (codeByte w) (decide (lowByte w = 0x05))
      else .swSetpointsNomatch w)
  else if w.extractLsb' 0 18 = 70 then some (.bw (w.extractLsb' 18 14) true)
  else if upper w = 0 then some (.iw (w.extractLsb' 0 16) true)
  else none

/-- The tag of a frame that holds a word alone. -/
def bareTag : Byte := 0xFE

/-- A word alone. -/
def rdBare : Reader Instr :=
  rdThen rdWord fun w =>
    match decodeBare w with
    | some i => rdPure i
    | none => rdFail (.badWord w)

/-- The reader of the frame with this tag: rows 0 to 27, the words (30_encoding). -/
def rdWordRow (tag : Byte) : Option (Reader Instr) :=
  match tag.toNat with
  | 0 => some (rdThen rdWord fun w => rdThen rdBit fun ok => rdPure (.cwInit w ok))
  | 1 => some (rdCwFixed 0x01 .cwSendcmdW)
  | 2 => some (rdCwFixed 0x01 .cwSendcmdR)
  | 3 => some (rdCwToggle 1 .cwCurveinfoW)
  | 4 => some (rdCwToggle 1 .cwCurveinfoR)
  | 5 => some (rdCwToggle 2 .cwSetpointsW)
  | 6 => some (rdCwToggle 2 .cwSetpointsR)
  | 7 => some (rdSwExact 0x0F .swInitAdv)
  | 8 => some (rdPure .swInitSteady)
  | 9 => some (rdSwErr 0x0F .swInitErr)
  | 10 => some (rdSwNomatch 0x0F .swInitNomatch)
  | 11 => some (rdSwExact 0x01 .swSendcmdAdv)
  | 12 => some (rdPure .swSendcmdSteady)
  | 13 => some (rdSwErr 0x01 .swSendcmdErr)
  | 14 => some (rdSwNomatch 0x01 .swSendcmdNomatch)
  | 15 => some (rdSwToggle 0x02 .swCurveinfoAdv)
  | 16 => some (rdSwToggle 0x402 .swCurveinfoSteady)
  | 17 => some (rdSwErrToggle 0x02 .swCurveinfoErr)
  | 18 => some (rdThen rdWord fun w => rdPure (.swCurveinfoNomatch w))
  | 19 => some (rdSwToggle 0x04 .swSetpointsAdv)
  | 20 => some (rdSwToggle 0x404 .swSetpointsSteady)
  | 21 => some (rdSwErrToggle 0x04 .swSetpointsErr)
  | 22 => some (rdThen rdWord fun w => rdPure (.swSetpointsNomatch w))
  | 23 => some (rdThen rdWord fun w => rdThen rdBit fun ok =>
      if upper w = 0 then rdPure (.iw (w.extractLsb' 0 16) ok) else rdFail (.badWord w))
  | 24 => some (rdThen rdWord fun w => rdThen rdBit fun ok =>
      if w.extractLsb' 0 18 = 70 then rdPure (.bw (w.extractLsb' 18 14) ok) else rdFail (.badWord w))
  | 25 => some (rdThen rdWord fun w => rdThen rdBit fun ok => rdPure (.dw w ok))
  | 26 => some (rdThen rdWord fun w => rdThen rdBit fun ok => rdPure (.pw w ok))
  | 27 => some (rdThen rdFields fun f => rdThen rdByte fun p0 => rdThen rdByte fun p1 => rdPure (.record f p0 p1))
  | _ => none

/-- The reader of the frame with this tag: rows 28 to 45, codec, conversions and requests. -/
def rdHostRow (tag : Byte) : Option (Reader Instr) :=
  match tag.toNat with
  | 28 => some (rdThen rdFields fun f => rdPure (.pack f))
  | 29 => some (rdPure .unpack)
  | 30 => some (rdThen rdName fun s => rdPure (.setName s))
  | 31 => some (rdThen rdHalf fun n => rdPure (.blocksize n))
  | 32 => some (rdPure .dump)
  | 33 => some (rdThen rdLong fun n => rdThen rdLong fun dt => rdPure (.xlenEncode n dt))
  | 34 => some (rdThen rdWord fun x => rdThen rdHalf fun n => rdPure (.xlenDecode x n))
  | 35 => some (rdThen rdHalf fun i => rdThen rdLong fun p => rdPure (.posEncode i p))
  | 36 => some (rdThen rdWord fun w => rdPure (.posDecode w))
  | 37 => some (rdThen rdProjectArgs fun a => rdPure (.project a))
  | 38 => some (rdThen rdHalf fun id => rdThen rdHalf fun count => rdThen rdBit fun ok =>
      rdPure (.reqWrite id count ok))
  | 39 => some (rdThen rdHalf fun id => rdPure (.reqRead id))
  | 40 => some (rdPure .sessionInit)
  | 41 => some (rdThen rdRequest fun r => rdPure (.rejBusy r))
  | 42 => some (rdThen rdRequest fun r => rdPure (.rejInvalidId r))
  | 43 => some (rdThen rdRequest fun r => rdPure (.rejInvalidDuration r))
  | 44 => some (rdThen rdRequest fun r => rdPure (.rejInvalidCount r))
  | 45 => some (rdPure .sinkRead)
  | _ => none

/-- The reader of the frame with this tag: rows 46 to 74, the step and its parts, the scheduler and reset. -/
def rdEngineRow (tag : Byte) : Option (Reader Instr) :=
  match tag.toNat with
  | 46 => some (rdThen rdCycle fun c => rdPure (.step c))
  | 47 => some (rdPure .stepInit)
  | 48 => some (rdThen rdBit fun i => rdThen rdBit fun v => rdPure (.stepSendcmd i v))
  | 49 => some (rdPure .stepCurveinfo)
  | 50 => some (rdPure .stepSetpoints)
  | 51 => some (rdPure .stepFinished)
  | 52 => some (rdPure .stepUnknown)
  | 53 => some (rdPure .toggleSet1)
  | 54 => some (rdPure .toggleFlipCurveinfo)
  | 55 => some (rdPure .toggleReset0)
  | 56 => some (rdPure .toggleFlipSetpoints)
  | 57 => some (rdThen rdWord fun w => rdPure (.classify w))
  | 58 => some (rdPure .txLoadDesc)
  | 59 => some (rdPure .txLoadSp)
  | 60 => some (rdThen rdBit fun ok => rdPure (.txNext ok))
  | 61 => some (rdPure .rxArmDesc)
  | 62 => some (rdPure .rxArmSp)
  | 63 => some (rdThen rdWord fun w => rdPure (.rxPush w))
  | 64 => some (rdPure .spAppend)
  | 65 => some (rdPure .tmoTick)
  | 66 => some (rdPure .tmoExpire)
  | 67 => some (rdPure .tmoArm)
  | 68 => some (rdThen rdWord fun w => rdPure (.errDevice w))
  | 69 => some (rdThen rdCause fun k => rdThen rdByte fun c => rdPure (.fail k c))
  | 70 => some (rdThen rdCycle fun c => rdThen rdBit fun g => rdPure (.tick c g))
  | 71 => some (rdPure .tickIdle)
  | 72 => some (rdThen rdBit fun g => rdPure (.lockAcq g))
  | 73 => some (rdPure .lockRel)
  | 74 => some (rdPure .reset)
  | _ => none

/-- The reader of the frame with this tag: the host writes of a script, tags 128 to 136. -/
def rdHostWrite (tag : Byte) : Option (Reader HostWrite) :=
  match tag.toNat with
  | 128 => some (rdThen rdHalf fun v => rdPure (.objectType v))
  | 129 => some (rdThen (rdVector rdByte 22) fun v => rdPure (.nameRaw v))
  | 130 => some (rdThen rdWord fun v => rdPure (.xLength v))
  | 131 => some (rdThen rdHalf fun v => rdPure (.xDimUuid v))
  | 132 => some (rdThen rdHalf fun v => rdPure (.yDimUuid v))
  | 133 => some (rdThen rdHalf fun v => rdPure (.wizardType v))
  | 134 => some (rdThen rdByte fun j => rdThen rdWord fun v =>
      if h : j.toNat < 7 then rdPure (.wizardParam ⟨j.toNat, h⟩ v) else rdFail (.badChoice j))
  | 135 => some (rdThen rdHalf fun i => rdThen rdWord fun v => rdPure (.setpoint i v))
  | 136 => some (rdThen rdHalf fun v => rdPure (.setpointCount v))
  | _ => none

/-- The reader of an operation's frame with this tag. -/
def rdRow (tag : Byte) : Reader Instr :=
  if tag = bareTag then rdBare
  else match rdWordRow tag with
    | some p => p
    | none => match rdHostRow tag with
      | some p => p
      | none => match rdEngineRow tag with
        | some p => p
        | none => rdFail (.unknownTag tag)

/-- The reader of the frame with this tag: the host reads, tags 137 to 139. -/
def rdHostRead (tag : Byte) : Option (Reader HostRead) :=
  match tag.toNat with
  | 137 => some (rdThen rdByte fun k =>
      if h : k.toNat < 18 then rdPure (.descWord ⟨k.toNat, h⟩) else rdFail (.badChoice k))
  | 138 => some (rdThen rdHalf fun i => rdPure (.setpoint i))
  | 139 => some (rdPure .dataRegs)
  | _ => none

/-- Decode one operation from the front of a byte string: the operation and the rest, or why there is none. -/
def decode : Reader Instr
  | [] => .error .noFrame
  | tag :: rest => rdRow tag rest

/-- Decode one event from the front of a script. -/
def decodeEvent : Reader Event
  | [] => .error .noFrame
  | tag :: rest =>
    match rdHostWrite tag with
    | some p => (rdThen p fun w => rdPure (.host w)) rest
    | none =>
      match rdHostRead tag with
      | some p => (rdThen p fun r => rdPure (.read r)) rest
      | none => (rdThen (rdRow tag) fun i => rdPure (.instr i)) rest

/-! ### Encoding a frame -/

/-- A one-bit operand. -/
def encBit (t : Bool) : List Byte := [bit 8 t]

/-- An operand that may be absent. -/
def encOption {α : Type} (e : α → List Byte) : Option α → List Byte
  | none => encBit false
  | some a => encBit true ++ e a

/-- The operands of a step. -/
def encCycle (c : Cycle) : List Byte :=
  encBit c.statusOk ++ le32 c.status ++ encBit c.valueOk ++ le32 c.value ++
  encBit c.indexWr ++ encBit c.valueWr ++ encBit c.controlWr

/-- A request. -/
def encRequest : Request → List Byte
  | .write id count ok => [0] ++ le16 id ++ le16 count ++ encBit ok
  | .read id => [1] ++ le16 id

/-- The number of a cause (60_exceptions R301). -/
def causeNumber : Cause → Byte
  | .timeout => 1
  | .deviceError => 2
  | .overflow => 3
  | .responseSize => 4
  | .unknownState => 5

/-- The operands of PROJECT. -/
def encProjectArgs (a : ProjectArgs) : List Byte :=
  encBit a.lookupOk ++ encOption le64 a.resolution ++ encOption le64 a.offset ++ le32 a.direction

/-- The operand of SET_NAME. -/
def encName : Option (List Byte) → List Byte :=
  encOption fun s => le16 (BitVec.ofNat 16 s.length) ++ s

/-- The 32-bit word of a word row, as the tables of 30_encoding give it; none for the two empty classes, the record
and the operations, which have no such word. -/
def wordOf : Instr → Option Word
  | .cwInit w _ => some w
  | .cwSendcmdW m _ => some (cwBits m 0 true)
  | .cwSendcmdR m _ => some (cwBits m 0 true)
  | .cwCurveinfoW m t _ => some (cwBits m 1 t)
  | .cwCurveinfoR m t _ => some (cwBits m 1 t)
  | .cwSetpointsW m t _ => some (cwBits m 2 t)
  | .cwSetpointsR m t _ => some (cwBits m 2 t)
  | .swInitAdv => some 0x0F
  | .swInitErr u c => some (swBits u c 0x0F)
  | .swInitNomatch sw => some sw
  | .swSendcmdAdv => some 0x01
  | .swSendcmdErr u c => some (swBits u c 0x01)
  | .swSendcmdNomatch sw => some sw
  | .swCurveinfoAdv t => some (0x02 + bit 32 t)
  | .swCurveinfoSteady t => some (0x402 + bit 32 t)
  | .swCurveinfoErr u c t => some (swBits u c (echoOf 0x02 t))
  | .swCurveinfoNomatch sw => some sw
  | .swSetpointsAdv t => some (0x04 + bit 32 t)
  | .swSetpointsSteady t => some (0x404 + bit 32 t)
  | .swSetpointsErr u c t => some (swBits u c (echoOf 0x04 t))
  | .swSetpointsNomatch sw => some sw
  | .iw i _ => some (iwBits i)
  | .bw n _ => some (bwBits n)
  | .dw d _ => some d
  | .pw p _ => some p
  | _ => none

/-- The bytes of a row's word. -/
def encWord (i : Instr) : List Byte :=
  match wordOf i with
  | some w => le32 w
  | none => []

/-- The frame of an operation. -/
def encode (i : Instr) : List Byte :=
  match i with
  | .cwInit _ ok => 0 :: (encWord i ++ encBit ok)
  | .cwSendcmdW _ ok => 1 :: (encWord i ++ encBit ok)
  | .cwSendcmdR _ ok => 2 :: (encWord i ++ encBit ok)
  | .cwCurveinfoW _ _ ok => 3 :: (encWord i ++ encBit ok)
  | .cwCurveinfoR _ _ ok => 4 :: (encWord i ++ encBit ok)
  | .cwSetpointsW _ _ ok => 5 :: (encWord i ++ encBit ok)
  | .cwSetpointsR _ _ ok => 6 :: (encWord i ++ encBit ok)
  | .swInitAdv => 7 :: encWord i
  | .swInitSteady => [8]
  | .swInitErr _ _ => 9 :: encWord i
  | .swInitNomatch _ => 10 :: encWord i
  | .swSendcmdAdv => 11 :: encWord i
  | .swSendcmdSteady => [12]
  | .swSendcmdErr _ _ => 13 :: encWord i
  | .swSendcmdNomatch _ => 14 :: encWord i
  | .swCurveinfoAdv _ => 15 :: encWord i
  | .swCurveinfoSteady _ => 16 :: encWord i
  | .swCurveinfoErr _ _ _ => 17 :: encWord i
  | .swCurveinfoNomatch _ => 18 :: encWord i
  | .swSetpointsAdv _ => 19 :: encWord i
  | .swSetpointsSteady _ => 20 :: encWord i
  | .swSetpointsErr _ _ _ => 21 :: encWord i
  | .swSetpointsNomatch _ => 22 :: encWord i
  | .iw _ ok => 23 :: (encWord i ++ encBit ok)
  | .bw _ ok => 24 :: (encWord i ++ encBit ok)
  | .dw _ ok => 25 :: (encWord i ++ encBit ok)
  | .pw _ ok => 26 :: (encWord i ++ encBit ok)
  | .record f p0 p1 => 27 :: (f.bytes ++ [p0, p1])
  | .pack f => 28 :: f.bytes
  | .unpack => [29]
  | .setName s => 30 :: encName s
  | .blocksize n => 31 :: le16 n
  | .dump => [32]
  | .xlenEncode n dt => 33 :: (le64 n ++ le64 dt)
  | .xlenDecode x n => 34 :: (le32 x ++ le16 n)
  | .posEncode k p => 35 :: (le16 k ++ le64 p)
  | .posDecode w => 36 :: le32 w
  | .project a => 37 :: encProjectArgs a
  | .reqWrite id count ok => 38 :: (le16 id ++ le16 count ++ encBit ok)
  | .reqRead id => 39 :: le16 id
  | .sessionInit => [40]
  | .rejBusy r => 41 :: encRequest r
  | .rejInvalidId r => 42 :: encRequest r
  | .rejInvalidDuration r => 43 :: encRequest r
  | .rejInvalidCount r => 44 :: encRequest r
  | .sinkRead => [45]
  | .step c => 46 :: encCycle c
  | .stepInit => [47]
  | .stepSendcmd a b => 48 :: (encBit a ++ encBit b)
  | .stepCurveinfo => [49]
  | .stepSetpoints => [50]
  | .stepFinished => [51]
  | .stepUnknown => [52]
  | .toggleSet1 => [53]
  | .toggleFlipCurveinfo => [54]
  | .toggleReset0 => [55]
  | .toggleFlipSetpoints => [56]
  | .classify sw => 57 :: le32 sw
  | .txLoadDesc => [58]
  | .txLoadSp => [59]
  | .txNext ok => 60 :: encBit ok
  | .rxArmDesc => [61]
  | .rxArmSp => [62]
  | .rxPush vin => 63 :: le32 vin
  | .spAppend => [64]
  | .tmoTick => [65]
  | .tmoExpire => [66]
  | .tmoArm => [67]
  | .errDevice sw => 68 :: le32 sw
  | .fail k c => 69 :: [causeNumber k, c]
  | .tick c g => 70 :: (encCycle c ++ encBit g)
  | .tickIdle => [71]
  | .lockAcq g => 72 :: encBit g
  | .lockRel => [73]
  | .reset => [74]

/-- The frame of a host write. -/
def encodeHost : HostWrite → List Byte
  | .objectType v => 128 :: le16 v
  | .nameRaw v => 129 :: v.toList
  | .xLength v => 130 :: le32 v
  | .xDimUuid v => 131 :: le16 v
  | .yDimUuid v => 132 :: le16 v
  | .wizardType v => 133 :: le16 v
  | .wizardParam j v => 134 :: (BitVec.ofNat 8 j.val :: le32 v)
  | .setpoint i v => 135 :: (le16 i ++ le32 v)
  | .setpointCount v => 136 :: le16 v

/-- The frame of a host read. -/
def encodeRead : HostRead → List Byte
  | .descWord k => [137, BitVec.ofNat 8 k.val]
  | .setpoint i => 138 :: le16 i
  | .dataRegs => [139]

/-- The bytes that put the word `w` alone on the status port. -/
def bareFrame (w : Nat) : List Byte := bareTag :: le32 (BitVec.ofNat 32 w)

/-- The operation the decoder reads from a table row's word: the word alone, its bytes low byte first. Bits above
`nbits` are 0. -/
def decodeTableWord (nbits w : Nat) : Option Instr :=
  match decode (bareFrame (w % 2 ^ nbits)) with
  | .ok (i, _) => some i
  | .error _ => none

end Sys2Proof
end

