-- ==== Sys2Proof/Machine/State.lean ====
section
/-! DEFINITION. The machine's state: every register of spec/10_state.md, the host's field values, the lock, the
parameters, and the model's own event log, answer port and script. Plain data. -/

namespace Sys2Proof.Machine

/-- Where the machine stops on an access the spec gives no meaning: an address that does not exist. Both are safe:
the machine stops where the spec describes no such access. -/
inductive Fault where
  /-- A byte outside DESC[0..71] (20_memory R70(b)). Raised by TX.NEXT, DW and RX.PUSH from states no run reaches.
  Safe. -/
  | descAddress
  /-- A word outside SP[0..MAX_SETPOINTS-1] (20_memory R70(c)). Raised by POS.ENCODE and by the host write and the host
  read of a setpoint with such an index, and by TX.NEXT, PW, PROJECT from states no run reaches. Safe. -/
  | spAddress
  deriving DecidableEq, Repr

/-- What the machine refuses to do: no operation, or an operation on operands the spec tells a model to refuse. All
are safe: the machine stops. -/
inductive Refusal where
  /-- An operation with no meaning yet; raised by `exec` alone. No arm uses it. -/
  | notModelled (mnemonic : String)
  /-- The script's next bytes are no frame; raised by `step`. -/
  | badFrame (r : Reject)
  /-- XLEN.ENCODE outside its domain: `dt` not finite, or the product not below 2^32 (93_implementation_defined U9). -/
  | xlenDomain
  /-- POS.ENCODE outside its domain: the position or its product not finite, or a tick that is no signed 32-bit number
  (93_implementation_defined U10). -/
  | posDomain
  /-- A tick while a step is still waiting for, or holding, the lock (93_implementation_defined U13). -/
  | tickOverrun
  deriving DecidableEq, Repr

/-- The direction of a session (10_state R23): `Write` = 0, `Read` = 1. -/
inductive Dir where
  | write | read
  deriving DecidableEq, Repr

/-- The source of the send cursor (10_state R36). -/
inductive TxSrc where
  | fromDesc | fromSp
  deriving DecidableEq, Repr

/-- The active receive buffer (10_state R37). -/
inductive RxTarget where
  | toDesc | toPending
  deriving DecidableEq, Repr

/-- The coarse transfer state (10_state R39). The value 3 is never written and is not in the type
(93_implementation_defined U2). -/
inductive Xfer where
  | idle | busy | done
  deriving DecidableEq, Repr

/-- The result code (10_state R40). -/
inductive Result where
  | success | failure
  deriving DecidableEq, Repr

/-- The message codes, in the order of their numbers 0 to 7 (60_exceptions R302). -/
inductive Message where
  | none | busy | done | timeout | deviceError | overflow | responseSize | unknownState
  deriving DecidableEq, Repr

/-- The register `fail_reason`: no failure, or a cause (60_exceptions R301, values 0 to 5). -/
inductive FailReason where
  | none | cause (c : Cause)
  deriving DecidableEq, Repr

/-- The answer to a request, `req_status` (42_requests R175, values 0 to 4). -/
inductive ReqStatus where
  | accepted | busy | invalidId | invalidDuration | invalidCount
  deriving DecidableEq, Repr

/-- The class of a status word (44_toggle_status_decode R236). -/
inductive SwClass where
  | adv | steady | err | nomatch
  deriving DecidableEq, Repr

/-- The write endpoints (20_memory R71, ids 3 to 5). -/
inductive OutPort where
  | controlWord | indexOut | valueOut
  deriving DecidableEq, Repr

/-- What leaves the engine: an endpoint write that succeeded, or a side output (10_state R45, 42_requests R187). -/
inductive OutEvent where
  | write (p : OutPort) (v : Word)
  | deleteCurveReq (id : Half)
  | projectionReq
  deriving DecidableEq, Repr

/-- The CTE's side of the register-interface lock (10_state R47), with the step a tick makes due (47_cycle_scheduler
R285, R288; 70_reset_and_hazards R350; log 9). -/
inductive Lock where
  /-- Not taken, no step due. -/
  | free
  /-- A tick came; its step waits for the grant. -/
  | waiting
  /-- Taken; the step of the tick is due. -/
  | held
  /-- Taken; the step has run, and the lock is to be given back. -/
  | stepped
  deriving DecidableEq, Repr

/-- The host's current field values (42_requests R176): the fields of a record the hardware does not fill itself. -/
structure HostFields where
  objectType   : Half
  name         : Vector Byte 22
  xLength      : Word
  xDimUuid     : Half
  yDimUuid     : Half
  wizardType   : Half
  wizardParams : Vector Word 7
  deriving DecidableEq, Repr

/-- What a read of the status sink gives (42_requests R186). -/
structure Sink where
  xferState     : Xfer
  result        : Result
  message       : Message
  failReason    : FailReason
  errorCode     : Byte
  underflowFlag : Bool
  deriving DecidableEq, Repr

/-- What a host read of the data registers gives (60_exceptions R325; 10_state R35 to R38). -/
structure DataRegs where
  spCount        : Half
  txSrc          : TxSrc
  txPos          : Half
  txLen          : Half
  rxTarget       : RxTarget
  rxCount        : Byte
  rxCap          : Byte
  rxPending      : Word
  rxPendingValid : Bool
  deriving DecidableEq, Repr

/-- What the last host operation answered. -/
inductive Answer where
  /-- Nothing was asked. -/
  | none
  /-- `req_status` of a request (42_requests R175). -/
  | req (r : ReqStatus)
  /-- SET_NAME: `Ok` or `NameTooLong` (40_descriptor_codec R144). -/
  | name (ok : Bool)
  /-- UNPACK (R142). -/
  | fields (f : Fields)
  /-- DUMP: the fields and the raw bytes (R146). -/
  | dump (f : Fields) (bytes : List Byte)
  /-- BLOCKSIZE (R145), or a host read of a word of DESC or SP (60_exceptions R325). -/
  | word (w : Word)
  /-- XLEN.ENCODE: `x_length`, or none for `InvalidDuration` (41_unit_conversions R162). -/
  | xlen (x : Option Word)
  /-- XLEN.DECODE and POS.DECODE (R163, R167). -/
  | real (r : Real64)
  /-- CLASSIFY (44_toggle_status_decode R236). -/
  | sw (c : SwClass)
  /-- SINK.READ (42_requests R186). -/
  | sink (s : Sink)
  /-- A host read of the data registers (60_exceptions R325). -/
  | data (d : DataRegs)
  deriving DecidableEq, Repr

/-- A byte-addressed memory as a list of (address, byte) pairs; its canonical form is `Memory.wf` of Machine/Ops.lean. -/
abbrev Memory := List Host.Cell

/-- The state of one curve-transfer engine, its host port and its script. -/
structure State where
  -- sequencer (10_state R21 to R31)
  state            : BitVec 3
  dir              : Dir
  curveId          : Half
  toggle           : Bool
  waitingForStatus : Bool
  changedMode      : Bool
  bufferResponse   : Bool
  expectedStatus   : Word
  nextModeStatus   : Word
  timeoutCtr       : Word
  -- data (10_state R32 to R38); word `i` of SP is bytes 4i to 4i+3 of `sp`
  desc             : Memory
  sp               : Memory
  spCount          : Half
  txSrc            : TxSrc
  txPos            : Half
  txLen            : Half
  rxTarget         : RxTarget
  rxCount          : Byte
  rxCap            : Byte
  rxPending        : Word
  rxPendingValid   : Bool
  -- status sink (10_state R39 to R43)
  xferState        : Xfer
  result           : Result
  message          : Message
  failReason       : FailReason
  errorCode        : Byte
  underflowFlag    : Bool
  -- host side and lock
  host             : HostFields
  lock             : Lock
  profile          : List Real64
  profileCount     : Nat
  -- parameters, constant (00_scope R9)
  params           : Params
  -- the model's own: events made, the last answer, events to come, the number of the next RESET's free values
  log              : List OutEvent
  answer           : Answer
  script           : List Byte
  resets           : Nat
  deriving DecidableEq, Repr

/-- The host field values after reset: the spec gives none (log 2). -/
def HostFields.reset : HostFields where
  objectType := 0
  name := Vector.replicate 22 0
  xLength := 0
  xDimUuid := 0
  yDimUuid := 0
  wizardType := 0
  wizardParams := Vector.replicate 7 0

/-- The machine after reset (10_state R51, 70_reset_and_hazards R340). DESC, SP, rx_pending and the host field values
are unspecified there; the value 0 is the model's (log 2). -/
def State.reset : State where
  state := 0
  dir := .write
  curveId := 0
  toggle := false
  waitingForStatus := false
  changedMode := false
  bufferResponse := false
  expectedStatus := 0
  nextModeStatus := 0
  timeoutCtr := 0
  desc := []
  sp := []
  spCount := 0
  txSrc := .fromDesc
  txPos := 0
  txLen := 0
  rxTarget := .toDesc
  rxCount := 0
  rxCap := 0
  rxPending := 0
  rxPendingValid := false
  xferState := .idle
  result := .success
  message := .none
  failReason := .none
  errorCode := 0
  underflowFlag := false
  host := HostFields.reset
  lock := .free
  profile := []
  profileCount := 0
  params := Config.params
  log := []
  answer := .none
  script := []
  resets := 0

end Sys2Proof.Machine
end

