-- ==== Sys2Proof/Machine/Ops.lean ====
section
/-! DEFINITION. The named operations over memory, endpoints and registers, the way an operation ends, and the entry of
a failure (60_exceptions R310), which is the hardware's only exception form (00_scope R15). There is no return from a
failure (60_exceptions R313): `sessionInit` and `resetRegisters` are the only ways out. -/

namespace Sys2Proof.Machine

/-! ### Memory (20_memory R70, R72, R74) -/

/-- What a byte that nothing has written reads as: the spec leaves it unspecified (10_state R51), 0 is the model's
(log 2). -/
def blankByte : Byte := 0

/-- Read one byte. -/
def readByte : Memory → Nat → Byte
  | [], _ => blankByte
  | (b, v) :: rest, a => if a = b then v else readByte rest a

/-- Write one byte, keeping the canonical form. -/
def writeByte : Memory → Nat → Byte → Memory
  | [], a, v => if v = blankByte then [] else [(a, v)]
  | (b, w) :: rest, a, v =>
    if a < b then (if v = blankByte then (b, w) :: rest else (a, v) :: (b, w) :: rest)
    else if a = b then (if v = blankByte then rest else (a, v) :: rest)
    else (b, w) :: writeByte rest a v

/-- Write bytes from an address on. -/
def writeBytes : Memory → Nat → List Byte → Memory
  | m, _, [] => m
  | m, a, v :: vs => writeBytes (writeByte m a v) (a + 1) vs

/-- The bytes from an address on. -/
def readBytes (m : Memory) (a : Nat) : Nat → List Byte
  | 0 => []
  | n + 1 => readByte m a :: readBytes m (a + 1) n

/-- The canonical form: addresses strictly rising, no entry that equals what an unlisted byte reads as. -/
def Memory.wf : Memory → Bool
  | [] => true
  | [(_, v)] => v != blankByte
  | (a, v) :: (b, w) :: rest => v != blankByte && decide (a < b) && Memory.wf ((b, w) :: rest)

/-- Every listed address lies below `n`. -/
def Memory.below (n : Nat) (m : Memory) : Bool := m.all fun c => decide (c.1 < n)

/-- `rd16(o)` of 40_descriptor_codec R140. -/
def rd16 (m : Memory) (o : Nat) : Half := join16 (readByte m o) (readByte m (o + 1))

/-- `rd32(o)` of 40_descriptor_codec R140. -/
def rd32 (m : Memory) (o : Nat) : Word :=
  join32 (readByte m o) (readByte m (o + 1)) (readByte m (o + 2)) (readByte m (o + 3))

/-- Word `k` of a memory: `DESCW(k)` (20_memory R72), or `SP[k]`, a word held as four bytes. -/
def wordAt (m : Memory) (k : Nat) : Word := rd32 m (4 * k)

/-- Store a word at word index `k` (20_memory R72). -/
def storeWord (m : Memory) (k : Nat) (w : Word) : Memory := writeBytes m (4 * k) (le32 w)

/-- The size of the descriptor byte space, DESC_BYTES (00_scope R9). -/
def descBytes : Nat := 72

/-- The number of words of the record, DESC_WORDS (00_scope R9). -/
def descWords : Nat := 18

/-! ### How an operation ends (43_step_sequencer R196) -/

/-- How an operation leaves its step: the step goes on; the step ends and keeps its writes (`skip`, `stop`,
`raise Fail`); the step is abandoned and only the event log stands; an access had no address. -/
inductive Flow where
  | go (s : State)
  | ended (s : State)
  | abandon (log : List OutEvent)
  | fault (f : Fault)
  deriving DecidableEq, Repr

/-- The next part of a step runs only if the part before it let the step go on. -/
def Flow.andThen (x : Flow) (f : State → Flow) : Flow :=
  match x with
  | .go s => f s
  | .ended s => .ended s
  | .abandon l => .abandon l
  | .fault e => .fault e

/-- Commit or roll back (43_step_sequencer R198): an abandoned step changes no register, and its endpoint writes and
pulses that happened stand. -/
def settle (s0 : State) (x : Flow) : Host.Outcome State Fault Refusal :=
  match x with
  | .go s => .next s
  | .ended s => .next s
  | .abandon l => .next { s0 with log := l }
  | .fault e => .fault e

/-! ### Endpoints and side outputs (00_scope R14, R15; 10_state R45) -/

/-- Record one event, the newest last. -/
def emit (e : OutEvent) (s : State) : State := { s with log := s.log ++ [e] }

/-- `RegWrite(e, v)`: a write that fails abandons the step (20_memory R81, 43_step_sequencer R198). -/
def regWrite (p : OutPort) (ok : Bool) (v : Word) (s : State) : Flow :=
  if ok then .go (emit (.write p v) s) else .abandon s.log

/-- Part 1 of a step: if either read fails the step is abandoned (43_step_sequencer R199). -/
def regReads (c : Cycle) (s : State) : Flow :=
  if c.statusOk && c.valueOk then .go s else .abandon s.log

/-- Write the CTE's side of the lock (47_cycle_scheduler R288). -/
def setLock (l : Lock) (s : State) : State := { s with lock := l }

/-- What the host port answers. -/
def answering (a : Answer) (s : State) : State := { s with answer := a }

/-! ### Taking a failure, and leaving it -/

/-- The message code of a cause (60_exceptions R302). -/
def causeMessage : Cause → Message
  | .timeout => .timeout
  | .deviceError => .deviceError
  | .overflow => .overflow
  | .responseSize => .responseSize
  | .unknownState => .unknownState

/-- The registers after `raise Fail(reason, code)` (60_exceptions R310). -/
def failed (k : Cause) (code : Byte) (s : State) : State :=
  { s with
    state := 5
    xferState := .done
    result := .failure
    failReason := .cause k
    errorCode := if k = .deviceError then code else 0
    message := causeMessage k }

/-- `raise Fail(reason, code)`: the writes made so far are kept and the step ends (60_exceptions R310). -/
def raiseFail (k : Cause) (code : Byte) (s : State) : Flow := .ended (failed k code s)

/-- `SessionInit` (42_requests R178): the way out of `Failed` and `Finished` (60_exceptions R313). -/
def startSession (s : State) : State :=
  { s with
    state := 0
    toggle := false
    waitingForStatus := false
    changedMode := false
    bufferResponse := false
    expectedStatus := 0
    nextModeStatus := 0
    timeoutCtr := 0
    txSrc := .fromDesc
    txPos := 0
    txLen := 0
    rxTarget := .toDesc
    rxCount := 0
    rxCap := 0
    rxPendingValid := false
    underflowFlag := false
    failReason := .none
    errorCode := 0
    xferState := .busy
    result := .success
    message := .busy }

/-- The host's field values, read from the bytes of a record at the offsets of 30_encoding R110. -/
def hostFieldsFrom (b : Nat → Byte) : HostFields where
  objectType := join16 (b 2) (b 3)
  name := Vector.ofFn fun k : Fin 22 => b (8 + k.val)
  xLength := join32 (b 32) (b 33) (b 34) (b 35)
  xDimUuid := join16 (b 36) (b 37)
  yDimUuid := join16 (b 38) (b 39)
  wizardType := join16 (b 40) (b 41)
  wizardParams := Vector.ofFn fun j : Fin 7 =>
    join32 (b (42 + 4 * j.val)) (b (43 + 4 * j.val)) (b (44 + 4 * j.val)) (b (45 + 4 * j.val))

/-- The registers after the input `rst` (70_reset_and_hazards R340): those of `State.reset`, but what R51 calls
unspecified is a free value, new at each reset (log 2). The parameters are no registers (10_state R44); the events
made, the answer, the published profile and the script are outside the engine. -/
def resetRegisters (s : State) : State :=
  { State.reset with
    desc := writeBytes [] 0 ((List.range descBytes).map (Config.resetDesc s.resets))
    sp := writeBytes [] 0 ((List.range (4 * s.params.maxSetpoints)).map (Config.resetSp s.resets))
    rxPending := Config.resetPending s.resets
    host := hostFieldsFrom (Config.resetField s.resets)
    params := s.params
    profile := s.profile
    profileCount := s.profileCount
    log := s.log
    answer := s.answer
    script := s.script
    resets := s.resets + 1 }

end Sys2Proof.Machine
end

