-- ==== Sys2Proof/Machine/Flags.lean ====
section
/-! DEFINITION. The sequencer's flags and codes: state numbers, successor, toggle, status codes, the classifier, the
timeout counter and its test. -/

namespace Sys2Proof.Machine

/-! ### The register `state` (10_state R21, R22) -/

/-- `Init` = 0. -/
def stInit : BitVec 3 := 0
/-- `SendCommand` = 1. -/
def stSendCommand : BitVec 3 := 1
/-- `CurveInfo` = 2. -/
def stCurveInfo : BitVec 3 := 2
/-- `Setpoints` = 3. -/
def stSetpoints : BitVec 3 := 3
/-- `Finished` = 4. -/
def stFinished : BitVec 3 := 4
/-- `Failed` = 5. -/
def stFailed : BitVec 3 := 5

/-- `succ(state)`: the next phase for 0 to 3, the value itself otherwise (10_state R22, D37). -/
def succState (v : BitVec 3) : BitVec 3 := if v.toNat ≤ 3 then v + 1 else v

/-! ### The toggle bit (44_toggle_status_decode R230 to R233) -/

/-- `toggle <- t`. -/
def setToggle (t : Bool) (s : State) : State := { s with toggle := t }

/-- `toggle <- toggle ^ 1`. -/
def flipToggle (s : State) : State := setToggle (!s.toggle) s

/-! ### The status codes (30_encoding R105) -/

/-- `next_mode_status <- adv; expected_status <- steady`. -/
def setCodes (adv steady : Word) (s : State) : State :=
  { s with nextModeStatus := adv, expectedStatus := steady }

/-- `constant + toggle`, with the toggle the arm left (30_encoding R105, R107(a)). -/
def codeWithToggle (base : Word) (s : State) : Word := base + bit 32 s.toggle

/-- `buffer_response <- (dir == Read)` (10_state R28). -/
def armResponse (s : State) : State := { s with bufferResponse := decide (s.dir = .read) }

/-! ### The classifier (44_toggle_status_decode R236) -/

/-- `classify(sw)` against `next_mode_status` and `expected_status`. -/
def classOf (next expected sw : Word) : SwClass :=
  if sw = next then .adv
  else if sw = expected then .steady
  else if lowByte sw = lowByte expected ∧ codeByte sw ≠ 0 then .err
  else .nomatch

/-- The class of a status word in this state. -/
def classify (sw : Word) (s : State) : SwClass := classOf s.nextModeStatus s.expectedStatus sw

/-- Class ADV: advance and mark it (44_toggle_status_decode R237). -/
def advance (s : State) : State := { s with state := succState s.state, changedMode := true }

/-- `changed_mode <- 0`, at the start of every step (43_step_sequencer R200). -/
def clearChanged (s : State) : State := { s with changedMode := false }

/-! ### The timeout (46_timeout_error) -/

/-- TMO.TICK (R270). -/
def countLook (s : State) : State :=
  if s.waitingForStatus then { s with timeoutCtr := s.timeoutCtr + 1 } else s

/-- The test of TMO.EXPIRE, `timeout_ctr > TIMEOUT_CYCLES` (R271). -/
def expired (s : State) : Bool := decide (s.params.timeoutCycles < s.timeoutCtr.toNat)

/-- TMO.EXPIRE (R271). -/
def checkExpired (s : State) : Flow := if expired s then raiseFail .timeout 0 s else .go s

/-- TMO.ARM, part 7 of a full step (R274). -/
def armWait (s : State) : State := { s with waitingForStatus := true, timeoutCtr := 0 }

/-- The condition of ERR.DEVICE (R275). -/
def deviceError (sw : Word) (s : State) : Bool :=
  sw != s.nextModeStatus && sw != s.expectedStatus && lowByte sw == lowByte s.expectedStatus && codeByte sw != 0

end Sys2Proof.Machine
end

