-- ==== Sys2Proof/Machine/Operands.lean ====
section
/-! DEFINITION. The operand forms: the record layout, the request checks, the control word, the block-size word, the
send cursor, the host write window. -/

namespace Sys2Proof.Machine

/-! ### The record (40_descriptor_codec R141, R142) -/

/-- The 72 bytes PACK writes: the fields at their offsets, then two bytes 0. -/
def packed (f : Fields) : List Byte := f.bytes ++ [0, 0]

/-- PACK writes every byte of DESC. -/
def packDesc (f : Fields) (s : State) : State := { s with desc := writeBytes s.desc 0 (packed f) }

/-- UNPACK: the fields of DESC at their offsets; bytes 70 and 71 are ignored. -/
def unpacked (m : Memory) : Fields where
  dataOffset := rd16 m 0
  objectType := rd16 m 2
  numSetpoints := rd16 m 4
  dataTypeSize := rd16 m 6
  name := Vector.ofFn fun k : Fin 22 => readByte m (8 + k.val)
  curveId := rd16 m 30
  xLength := rd32 m 32
  xDimUuid := rd16 m 36
  yDimUuid := rd16 m 38
  wizardType := rd16 m 40
  wizardParams := Vector.ofFn fun j : Fin 7 => rd32 m (42 + 4 * j.val)

/-- The field values an accepted write request packs (40_descriptor_codec R143). -/
def requestFields (id count : Half) (s : State) : Fields where
  dataOffset := s.params.dataOffset
  objectType := s.host.objectType
  numSetpoints := count
  dataTypeSize := 4
  name := s.host.name
  curveId := id
  xLength := s.host.xLength
  xDimUuid := s.host.xDimUuid
  yDimUuid := s.host.yDimUuid
  wizardType := s.host.wizardType
  wizardParams := s.host.wizardParams

/-- The name field SET_NAME makes of a string: its bytes, then zeros (40_descriptor_codec R144). -/
def nameField (t : List Byte) : Vector Byte 22 := Vector.ofFn fun k : Fin 22 => t.getD k.val 0

/-! ### Requests (42_requests R176, R177, R183) -/

/-- The first check that fails, in the order busy, id, duration, count. -/
def checkRequest (r : Request) (s : State) : ReqStatus :=
  match r with
  | .write id count xlenOk =>
    if s.xferState = .busy then .busy
    else if id.toNat < 1 ∨ s.params.maxCurveId < id.toNat then .invalidId
    else if count = 0 ∨ xlenOk = false then .invalidDuration
    else if s.params.maxSetpoints < count.toNat then .invalidCount
    else .accepted
  | .read id =>
    if s.xferState = .busy then .busy
    else if id.toNat < 1 ∨ s.params.maxCurveId < id.toNat then .invalidId
    else .accepted

/-- What a request is answered (42_requests R175). -/
def answerRequest (r : ReqStatus) (s : State) : State := answering (.req r) s

/-- `reject(reason)`, where the request meets this reason's condition (42_requests R179 to R182). -/
def rejectIf (reason : ReqStatus) (r : Request) (s : State) : State :=
  if checkRequest r s = reason then answerRequest reason s else s

/-- The registers an accepted write request writes before `SessionInit` (42_requests R176). -/
def loadWrite (id count : Half) (s : State) : State :=
  packDesc (requestFields id count s) { s with dir := .write, curveId := id, spCount := count }

/-- The registers an accepted read request writes before `SessionInit` (42_requests R177). -/
def loadRead (id : Half) (s : State) : State :=
  { s with dir := .read, curveId := id, desc := writeBytes s.desc 0 (List.replicate descBytes 0), spCount := 0 }

/-- The host's write ports are open while the engine is not busy (20_memory R90, 42_requests R188). -/
def hostOpen (s : State) : Bool := decide (s.xferState ≠ .busy)

/-! ### Words the engine computes -/

/-- `BLOCKSIZE(N)`: `trunc32((N << 18) | 70)` (40_descriptor_codec R145). -/
def blockSize (n : Half) : Word := BitVec.ofNat 32 (n.toNat <<< 18 ||| 70)

/-- `base_mode` of the session's direction (30_encoding R101). -/
def baseMode (s : State) : Nat :=
  match s.dir with
  | .write => s.params.baseModeWrite
  | .read => s.params.baseModeRead

/-- The control word of part 6 (43_step_sequencer R205), where the state has one (R213). -/
def controlWord (s : State) : Option Word :=
  if s.state = stInit then some s.params.initControlWord
  else if s.state = stSendCommand ∨ s.state = stCurveInfo ∨ s.state = stSetpoints then
    let k := s.state.toNat - 1
    some (BitVec.ofNat 32 ((baseMode s + k) <<< 8 ||| k <<< 1 ||| s.toggle.toNat))
  else none

/-- The word STEP.SENDCMD writes to `value_out`: the block size, or 0 in a read session (43_step_sequencer R207). -/
def sizeWord (s : State) : Word :=
  match s.dir with
  | .write => blockSize (rd16 s.desc 4)
  | .read => 0

/-! ### The send cursor and the receive side (45_word_serializer) -/

/-- TX.LOAD.DESC (R250). -/
def loadTxDesc (s : State) : State := { s with txSrc := .fromDesc, txPos := 0, txLen := 18 }

/-- TX.LOAD.SP (R250). -/
def loadTxSp (s : State) : State := { s with txSrc := .fromSp, txPos := 0, txLen := s.spCount }

/-- RX.ARM.DESC (R254). -/
def armRxDesc (s : State) : State := { s with rxTarget := .toDesc, rxCount := 0, rxCap := 18 }

/-- RX.ARM.SP (R254). -/
def armRxSp (s : State) : State := { s with rxTarget := .toPending, rxPendingValid := false }

/-- The word under the send cursor, `DESCW(tx_pos)` or `SP[tx_pos]` (45_word_serializer R251), or the fault of an
address that does not exist (20_memory R70). -/
def cursorWord (s : State) : Except Fault Word :=
  match s.txSrc with
  | .fromDesc =>
    if s.txPos.toNat < descWords then .ok (wordAt s.desc s.txPos.toNat) else .error .descAddress
  | .fromSp =>
    if s.txPos.toNat < s.params.maxSetpoints then .ok (wordAt s.sp s.txPos.toNat) else .error .spAddress

/-- TX.NEXT (45_word_serializer R251, R252). -/
def sendNext (ok : Bool) (s : State) : Flow :=
  if s.txPos.toNat < s.txLen.toNat then
    match cursorWord s with
    | .ok w => (regWrite .valueOut ok w s).andThen fun s => .go { s with txPos := s.txPos + 1 }
    | .error e => .fault e
  else .go { s with underflowFlag := true }

/-- The body of RX.PUSH (45_word_serializer R255). -/
def storeReceived (vin : Word) (s : State) : Flow :=
  match s.rxTarget with
  | .toDesc =>
    if s.rxCap.toNat ≤ s.rxCount.toNat then raiseFail .overflow 0 s
    else if s.rxCount.toNat < descWords then
      .go { s with desc := storeWord s.desc s.rxCount.toNat vin, rxCount := s.rxCount + 1 }
    else .fault .descAddress
  | .toPending => .go { s with rxPending := vin, rxPendingValid := true }

/-- RX.PUSH where a response was requested; otherwise the word is dropped (45_word_serializer R255, R259). -/
def receive (vin : Word) (s : State) : Flow :=
  if s.bufferResponse then storeReceived vin s else .go s

/-- SP.APPEND (45_word_serializer R258). -/
def appendPending (s : State) : Flow :=
  if s.rxPendingValid then
    if s.params.maxSetpoints ≤ s.spCount.toNat then raiseFail .overflow 0 s
    else .go { s with
      sp := storeWord s.sp s.spCount.toNat s.rxPending
      spCount := s.spCount + 1
      rxPendingValid := false }
  else .go s

/-- Store one setpoint word through the host's port (42_requests R188). -/
def hostSetpoint (k : Nat) (w : Word) (s : State) : Host.Outcome State Fault Refusal :=
  if hostOpen s then
    if k < s.params.maxSetpoints then .next { s with sp := storeWord s.sp k w } else .fault .spAddress
  else .next s

end Sys2Proof.Machine
end

