-- ==== Sys2Proof/Machine/Codec.lean ====
section
/-! DEFINITION. The descriptor codec: PACK, UNPACK, SET_NAME, BLOCKSIZE, DUMP (40_descriptor_codec). -/

namespace Sys2Proof.Machine

/-- PACK (R141). The rule runs it "as part of an accepted REQ.WRITE" and at no other time; that the row performed alone,
while `Busy` too, packs DESC by the same pseudocode is the model's choice (DESIGN CHOICE, log 11). -/
def execPack (f : Fields) (s : State) : Host.Outcome State Fault Refusal := .next (packDesc f s)

/-- UNPACK (R142): the fields of the bytes DESC holds, to the host; no register changes. The rule offers the host this
view while `xfer_state` is not `Busy`; that it answers the same way while `Busy` is the model's choice (DESIGN CHOICE,
log 13). -/
def execUnpack (s : State) : Host.Outcome State Fault Refusal :=
  .next (answering (.fields (unpacked s.desc)) s)

/-- SET_NAME (R144). While busy the host's write is ignored (42_requests R188). -/
def execSetName (t : Option (List Byte)) (s : State) : Host.Outcome State Fault Refusal :=
  match t with
  | none => .next (answering (.name false) s)
  | some b =>
    if 22 ≤ b.length then .next (answering (.name false) s)
    else .next (answering (.name true)
      (if hostOpen s then { s with host := { s.host with name := nameField b } } else s))

/-- BLOCKSIZE (R145). -/
def execBlocksize (n : Half) (s : State) : Host.Outcome State Fault Refusal :=
  .next (answering (.word (blockSize n)) s)

/-- DUMP: the fields and the raw bytes (R146), in the same states and with the same choice as UNPACK (DESIGN CHOICE, log
13). -/
def execDump (s : State) : Host.Outcome State Fault Refusal :=
  .next (answering (.dump (unpacked s.desc) (readBytes s.desc 0 descBytes)) s)

end Sys2Proof.Machine
end

