-- ==== Sys2Proof/Machine/Binary64.lean ====
section
/-! DEFINITION. IEEE 754 binary64 values as bit patterns (00_scope R12): the conversions and operations
41_unit_conversions uses, each computed exactly and rounded once, to nearest, ties to even (log 7). -/

namespace Sys2Proof.Machine

/-- The sign bit. -/
def fSign (x : Real64) : Bool := x.getLsbD 63
/-- The exponent field. -/
def fExp (x : Real64) : Nat := (x.extractLsb' 52 11).toNat
/-- The fraction field. -/
def fFrac (x : Real64) : Nat := (x.extractLsb' 0 52).toNat

/-- Neither infinite nor NaN. -/
def fFinite (x : Real64) : Bool := decide (fExp x ≠ 2047)
/-- A NaN. -/
def fNaN (x : Real64) : Bool := decide (fExp x = 2047 ∧ fFrac x ≠ 0)
/-- An infinity. -/
def fInf (x : Real64) : Bool := decide (fExp x = 2047 ∧ fFrac x = 0)
/-- A zero of either sign. -/
def fZero (x : Real64) : Bool := decide (fExp x = 0 ∧ fFrac x = 0)

/-- A finite value is `± fMant x * 2 ^ fScale x`: this is the integer `fMant`. -/
def fMant (x : Real64) : Nat := if fExp x = 0 then fFrac x else 2 ^ 52 + fFrac x
/-- A finite value is `± fMant x * 2 ^ fScale x`: this is the exponent `fScale`. -/
def fScale (x : Real64) : Int := (if fExp x = 0 then 1 else (fExp x : Int)) - 1075

/-- The quotient `a / b` rounded to the nearest integer, ties to even. -/
def roundQuot (a b : Nat) : Nat :=
  let q := a / b
  let r := a % b
  if b < 2 * r ∨ (2 * r = b ∧ q % 2 = 1) then q + 1 else q

/-- A bit pattern from a sign and the 63 bits below it. -/
def fPattern (neg : Bool) (low : Nat) : Real64 := BitVec.ofNat 64 ((if neg then 2 ^ 63 else 0) + low)

/-- The pattern of an infinity. -/
def fInfinity (neg : Bool) : Real64 := fPattern neg (2047 * 2 ^ 52)
/-- The quiet NaN an invalid operation gives. -/
def fQuietNaN : Real64 := fPattern false (2047 * 2 ^ 52 + 2 ^ 51)

/-- `a / b * 2 ^ e` scaled by `2 ^ (-t)`, as a quotient of naturals, rounded to an integer. -/
def scaledRound (a b : Nat) (e t : Int) : Nat :=
  if t ≤ e then roundQuot (a * 2 ^ (e - t).toNat) b else roundQuot a (b * 2 ^ (t - e).toNat)

/-- The exponent of the last place of the binary64 nearest `a / b * 2 ^ e`: the quotient scaled by it lies in
`[2^52, 2^53)`, or it is the smallest exponent there is, -1074. -/
def lastPlace (a b : Nat) (e : Int) : Int :=
  let t := e + (Nat.log2 a : Int) - (Nat.log2 b : Int) - 52
  let below : Bool :=
    if t ≤ e then decide (a * 2 ^ (e - t).toNat < b * 2 ^ 52) else decide (a < b * 2 ^ (t - e).toNat * 2 ^ 52)
  max (if below then t - 1 else t) (-1074)

/-- The binary64 nearest `± a / b * 2 ^ e`. -/
def fRound (neg : Bool) (a b : Nat) (e : Int) : Real64 :=
  if a = 0 then fPattern neg 0
  else
    let t := lastPlace a b e
    let q := scaledRound a b e t
    let low := (t + 1074).toNat * 2 ^ 52 + q
    if 2047 * 2 ^ 52 ≤ low then fInfinity neg else fPattern neg low

/-- `f64(n)` of a natural. -/
def fOfNat (n : Nat) : Real64 := fRound false n 1 0

/-- `f64(i)` of an integer. -/
def fOfInt (i : Int) : Real64 := fRound (decide (i < 0)) i.natAbs 1 0

/-- The product. -/
def fMul (x y : Real64) : Real64 :=
  let neg := fSign x ^^ fSign y
  if fNaN x || fNaN y then fQuietNaN
  else if fInf x || fInf y then (if fZero x || fZero y then fQuietNaN else fInfinity neg)
  else fRound neg (fMant x * fMant y) 1 (fScale x + fScale y)

/-- The quotient. -/
def fDiv (x y : Real64) : Real64 :=
  let neg := fSign x ^^ fSign y
  if fNaN x || fNaN y || (fInf x && fInf y) || (fZero x && fZero y) then fQuietNaN
  else if fInf x || fZero y then fInfinity neg
  else if fInf y then fPattern neg 0
  else fRound neg (fMant x) (fMant y) (fScale x - fScale y)

/-- The order of the values that are not NaN, as integers. -/
def fKey (x : Real64) : Int :=
  let low : Int := (x.extractLsb' 0 63).toNat
  if fSign x then -low else low

/-- `x <= y`; false if either is NaN. -/
def fLe (x y : Real64) : Bool := !fNaN x && !fNaN y && decide (fKey x ≤ fKey y)

/-- The largest integer not above a finite value. -/
def fFloor (x : Real64) : Int :=
  let m : Int := if fSign x then -(fMant x : Int) else fMant x
  if 0 ≤ fScale x then m * 2 ^ (fScale x).toNat else m / 2 ^ (-fScale x).toNat

/-! ### The constants of 41_unit_conversions R160 -/

/-- X_LENGTH_SCALE = 1e5. -/
def xLengthScale : Real64 := fOfNat 100000
/-- POSITION_SCALE = 1e4. -/
def positionScale : Real64 := fOfNat 10000
/-- LM_MAX_CURVE_TIME = 2^32 / 1e5 seconds. -/
def lmMaxCurveTime : Real64 := fDiv (fOfNat (2 ^ 32)) xLengthScale
/-- 1.0, the default resolution (R168). -/
def fOne : Real64 := fOfNat 1
/-- 0.5, the offset when the parameter lookup fails (R168). -/
def fHalf : Real64 := fDiv fOne (fOfNat 2)

/-- The duration of `n` samples spaced `dt` (R161). -/
def totalSeconds (n : BitVec 64) (dt : Real64) : Real64 := fMul (fOfNat n.toNat) dt

/-- The duration lies outside `(0, LM_MAX_CURVE_TIME)` (R161, R162). -/
def durationInvalid (total : Real64) : Bool := fLe total (fOfNat 0) || fLe lmMaxCurveTime total

/-- `dt` of a descriptor (R163). -/
def decodedDt (x : Word) (n : Half) : Real64 :=
  if 0 < x.toNat ∧ 0 < n.toNat then fDiv (fOfNat x.toNat) (fMul (fOfNat n.toNat) xLengthScale) else fOfNat 0

/-- `p = f64(s32(w)) / 1e4` (R167). -/
def decodedPosition (w : Word) : Real64 := fDiv (fOfInt w.toInt) positionScale

/-- POS_ROUND of an instance: the listed roundings, floor elsewhere (00_scope R9, log 4). -/
def posRound (p : Params) (x : Real64) : Int :=
  match p.posRounds.find? fun e => e.1 == x with
  | some e => e.2
  | none => fFloor x

end Sys2Proof.Machine
end

