-- ==== Sys2Proof/Machine/Conversions.lean ====
section
/-! DEFINITION. The unit conversions at the host boundary (41_unit_conversions). -/

namespace Sys2Proof.Machine

/-- XLEN.ENCODE (R162). The domain is that of 93_implementation_defined U9: `dt` finite, and the product below 2^32. -/
def execXlenEncode (n : BitVec 64) (dt : Real64) (s : State) : Host.Outcome State Fault Refusal :=
  if fFinite dt then
    let total := totalSeconds n dt
    if durationInvalid total then .next (answering (.xlen none) s)
    else
      let x := fFloor (fMul total xLengthScale)
      if x < 2 ^ 32 then .next (answering (.xlen (some (BitVec.ofInt 32 x))) s) else .refused .xlenDomain
  else .refused .xlenDomain

/-- XLEN.DECODE (R163). -/
def execXlenDecode (x : Word) (n : Half) (s : State) : Host.Outcome State Fault Refusal :=
  .next (answering (.real (decodedDt x n)) s)

/-- POS.ENCODE (R165): the tick of a position, stored in SP[i]. The domain is that of 93_implementation_defined U10. -/
def execPosEncode (i : Half) (p : Real64) (s : State) : Host.Outcome State Fault Refusal :=
  let scaled := fMul p positionScale
  if fFinite p && fFinite scaled then
    let tick := posRound s.params scaled
    if -(2 ^ 31) ≤ tick ∧ tick < 2 ^ 31 then hostSetpoint i.toNat (BitVec.ofInt 32 tick) s
    else .refused .posDomain
  else .refused .posDomain

/-- POS.DECODE (R167). -/
def execPosDecode (w : Word) (s : State) : Host.Outcome State Fault Refusal :=
  .next (answering (.real (decodedPosition w)) s)

/-- The resolution the projection uses: the caller's, default 1.0; 1.0 where the lookup fails (R168). -/
def projectResolution (a : ProjectArgs) : Real64 := if a.lookupOk then a.resolution.getD fOne else fOne

/-- The offset the projection uses: the caller's, default 0.0; 0.5 where the lookup fails (R168). -/
def projectOffset (a : ProjectArgs) : Real64 := if a.lookupOk then a.offset.getD (fOfNat 0) else fHalf

/-- The positions received in a read session, SP[0 .. sp_count - 1] (R167). -/
def receivedPositions (s : State) : List Real64 :=
  (List.range s.spCount.toNat).map fun k => decodedPosition (wordAt s.sp k)

/-- A read session has completed (R168: "on completed reads"). -/
def completedRead (s : State) : Bool :=
  decide (s.xferState = .done ∧ s.result = .success ∧ s.dir = .read)

/-- PROJECT (R168): on a completed read the projected array, truncated to the maximum point count, and its sample
count are published. The formula of a point is a free value (91_not_in_source N14, log 8). -/
def execProject (a : ProjectArgs) (s : State) : Host.Outcome State Fault Refusal :=
  if completedRead s then
    if s.params.maxSetpoints < s.spCount.toNat then .fault .spAddress
    else
      let points := ((receivedPositions s).take s.params.maxPoints).map
        (Config.projectPoint (projectResolution a) (projectOffset a) (decide (a.direction ≠ 0)))
      .next { s with profile := points, profileCount := points.length }
  else .next s

end Sys2Proof.Machine
end

