-- ==== Sys2Proof/Machine/Detector.lean ====
section
/-! DEFINITION. The timeout and error-code detector (46_timeout_error) and the failure entry (60_exceptions R310). -/

namespace Sys2Proof.Machine

/-- TMO.TICK (R270). -/
def execTmoTick (s : State) : Host.Outcome State Fault Refusal := .next (countLook s)

/-- TMO.EXPIRE (R271). -/
def execTmoExpire (s : State) : Host.Outcome State Fault Refusal := settle s (checkExpired s)

/-- TMO.ARM (R274). -/
def execTmoArm (s : State) : Host.Outcome State Fault Refusal := .next (armWait s)

/-- ERR.DEVICE (R275). -/
def execErrDevice (sw : Word) (s : State) : Host.Outcome State Fault Refusal :=
  settle s (if deviceError sw s then raiseFail .deviceError (codeByte sw) s else .go s)

/-- FAIL, `raise Fail(reason, code)` (60_exceptions R310). -/
def execFail (k : Cause) (code : Byte) (s : State) : Host.Outcome State Fault Refusal :=
  settle s (raiseFail k code s)

end Sys2Proof.Machine
end

