-- ==== Sys2Proof/Machine/Requests.lean ====
section
/-! DEFINITION. The host requests, and the host's writes and reads (42_requests; 60_exceptions R325). -/

namespace Sys2Proof.Machine

/-- REQ.WRITE (R176). A rejected request changes no register; `req_status` carries the reason. -/
def execReqWrite (id count : Half) (xlenOk : Bool) (s : State) : Host.Outcome State Fault Refusal :=
  let r := checkRequest (.write id count xlenOk) s
  .next (answerRequest r (if r = .accepted then startSession (loadWrite id count s) else s))

/-- REQ.READ (R177). -/
def execReqRead (id : Half) (s : State) : Host.Outcome State Fault Refusal :=
  let r := checkRequest (.read id) s
  .next (answerRequest r (if r = .accepted then startSession (loadRead id s) else s))

/-- SessionInit (R178), "the common part of an accepted request"; that the row performed alone does the same in every
state is the model's choice (DESIGN CHOICE, log 11). -/
def execSessionInit (s : State) : Host.Outcome State Fault Refusal := .next (startSession s)

/-- REJ.BUSY (R179). -/
def execRejBusy (r : Request) (s : State) : Host.Outcome State Fault Refusal := .next (rejectIf .busy r s)

/-- REJ.INVALID_ID (R180). -/
def execRejInvalidId (r : Request) (s : State) : Host.Outcome State Fault Refusal := .next (rejectIf .invalidId r s)

/-- REJ.INVALID_DURATION (R181). -/
def execRejInvalidDuration (r : Request) (s : State) : Host.Outcome State Fault Refusal :=
  .next (rejectIf .invalidDuration r s)

/-- REJ.INVALID_COUNT (R182). -/
def execRejInvalidCount (r : Request) (s : State) : Host.Outcome State Fault Refusal :=
  .next (rejectIf .invalidCount r s)

/-- What SINK.READ gives (R186). -/
def sinkOf (s : State) : Sink where
  xferState := s.xferState
  result := s.result
  message := s.message
  failReason := s.failReason
  errorCode := s.errorCode
  underflowFlag := s.underflowFlag

/-- SINK.READ (R186): no side effect on any register. -/
def execSinkRead (s : State) : Host.Outcome State Fault Refusal := .next (answering (.sink (sinkOf s)) s)

/-- A host write of a script (30_encoding R117): while busy it is ignored (R188, 93_implementation_defined U15). A
count above MAX_SETPOINTS is outside the register's range (10_state R35) and is ignored (log 11). -/
def execHostWrite (w : HostWrite) (s : State) : Host.Outcome State Fault Refusal :=
  match w with
  | .setpoint i v => hostSetpoint i.toNat v s
  | .setpointCount v => .next (if hostOpen s ∧ v.toNat ≤ s.params.maxSetpoints then { s with spCount := v } else s)
  | .objectType v => .next (if hostOpen s then { s with host := { s.host with objectType := v } } else s)
  | .nameRaw v => .next (if hostOpen s then { s with host := { s.host with name := v } } else s)
  | .xLength v => .next (if hostOpen s then { s with host := { s.host with xLength := v } } else s)
  | .xDimUuid v => .next (if hostOpen s then { s with host := { s.host with xDimUuid := v } } else s)
  | .yDimUuid v => .next (if hostOpen s then { s with host := { s.host with yDimUuid := v } } else s)
  | .wizardType v => .next (if hostOpen s then { s with host := { s.host with wizardType := v } } else s)
  | .wizardParam j v =>
    .next (if hostOpen s then { s with host := { s.host with wizardParams := s.host.wizardParams.set j v } } else s)

/-- The data registers beside the two memories (10_state R35 to R38), as the host reads them. -/
def dataRegsOf (s : State) : DataRegs where
  spCount := s.spCount
  txSrc := s.txSrc
  txPos := s.txPos
  txLen := s.txLen
  rxTarget := s.rxTarget
  rxCount := s.rxCount
  rxCap := s.rxCap
  rxPending := s.rxPending
  rxPendingValid := s.rxPendingValid

/-- A host read (60_exceptions R325): what the registers hold at that moment, in every transfer state (70_reset_and_hazards
R354 for a read session in flight, 93_implementation_defined U6 after a failure; the model's choice elsewhere, log 13);
no register changes. A word outside SP does not exist (20_memory R70). -/
def execHostRead (r : HostRead) (s : State) : Host.Outcome State Fault Refusal :=
  match r with
  | .descWord k => .next (answering (.word (wordAt s.desc k.val)) s)
  | .setpoint i =>
    if i.toNat < s.params.maxSetpoints then .next (answering (.word (wordAt s.sp i.toNat)) s) else .fault .spAddress
  | .dataRegs => .next (answering (.data (dataRegsOf s)) s)

end Sys2Proof.Machine
end

