-- ==== Sys2Proof/Machine/Words.lean ====
section
/-! DEFINITION. The word rows: the control words CW.* (43_step_sequencer R205), the index and block-size words IW and
BW, the data words DW and PW, and the record REC (30_encoding R108 to R112). The engine computes the words it emits; a
row's word is emitted where the registers call for exactly this word, and nowhere else (log 11). -/

namespace Sys2Proof.Machine

/-- Parts 6 and 7 of a step: write the control word, arm the wait (43_step_sequencer R205). -/
def emitControl (ok : Bool) (s : State) : Flow :=
  match controlWord s with
  | some w => (regWrite .controlWord ok w s).andThen fun s => .go (armWait s)
  | none => .go s

/-- A control-word row: performed where the state is the row's and the control word is the row's word. -/
def emitRow (here : Bool) (w : Word) (ok : Bool) (s : State) : Host.Outcome State Fault Refusal :=
  settle s (if here && controlWord s == some w then emitControl ok s else .go s)

/-- The state and the direction of a control-word row (30_encoding R103). -/
def inPhase (st : BitVec 3) (d : Dir) (s : State) : Bool := decide (s.state = st ∧ s.dir = d)

/-- CW.INIT (30_encoding R102). -/
def execCwInit (w : Word) (ok : Bool) (s : State) : Host.Outcome State Fault Refusal :=
  emitRow (decide (s.state = stInit)) w ok s

/-- CW.SENDCMD.W (30_encoding R103). -/
def execCwSendcmdW (m : BitVec 24) (ok : Bool) (s : State) : Host.Outcome State Fault Refusal :=
  emitRow (inPhase stSendCommand .write s) (cwBits m 0 true) ok s

/-- CW.SENDCMD.R (30_encoding R103). -/
def execCwSendcmdR (m : BitVec 24) (ok : Bool) (s : State) : Host.Outcome State Fault Refusal :=
  emitRow (inPhase stSendCommand .read s) (cwBits m 0 true) ok s

/-- CW.CURVEINFO.W (30_encoding R103). -/
def execCwCurveinfoW (m : BitVec 24) (t ok : Bool) (s : State) : Host.Outcome State Fault Refusal :=
  emitRow (inPhase stCurveInfo .write s) (cwBits m 1 t) ok s

/-- CW.CURVEINFO.R (30_encoding R103). -/
def execCwCurveinfoR (m : BitVec 24) (t ok : Bool) (s : State) : Host.Outcome State Fault Refusal :=
  emitRow (inPhase stCurveInfo .read s) (cwBits m 1 t) ok s

/-- CW.SETPOINTS.W (30_encoding R103). -/
def execCwSetpointsW (m : BitVec 24) (t ok : Bool) (s : State) : Host.Outcome State Fault Refusal :=
  emitRow (inPhase stSetpoints .write s) (cwBits m 2 t) ok s

/-- CW.SETPOINTS.R (30_encoding R103). -/
def execCwSetpointsR (m : BitVec 24) (t ok : Bool) (s : State) : Host.Outcome State Fault Refusal :=
  emitRow (inPhase stSetpoints .read s) (cwBits m 2 t) ok s

/-- IW: STEP.SENDCMD writes the curve id to `index_out` (30_encoding R108, 43_step_sequencer R207). -/
def execIw (i : Half) (ok : Bool) (s : State) : Host.Outcome State Fault Refusal :=
  settle s (if decide (s.state = stSendCommand ∧ i = s.curveId) then regWrite .indexOut ok (iwBits i) s else .go s)

/-- BW: STEP.SENDCMD of a write session writes the block size to `value_out` (30_encoding R109, 43_step_sequencer
R207). -/
def execBw (n : BitVec 14) (ok : Bool) (s : State) : Host.Outcome State Fault Refusal :=
  settle s (if inPhase stSendCommand .write s && bwBits n == sizeWord s then regWrite .valueOut ok (bwBits n) s
    else .go s)

/-- The send cursor points at this word. -/
def cursorIs (src : TxSrc) (w : Word) (s : State) : Bool :=
  decide (s.txSrc = src ∧ s.txPos.toNat < s.txLen.toNat) &&
  match cursorWord s with
  | .ok v => v == w
  | .error _ => false

/-- A data word: sent in a write session where the cursor points at it (45_word_serializer R251), received in a read
session where it is the active buffer's (R255); elsewhere nothing moves. -/
def dataWord (st : BitVec 3) (src : TxSrc) (target : RxTarget) (w : Word) (ok : Bool) (s : State) : Flow :=
  match s.dir with
  | .write => if decide (s.state = st) && cursorIs src w s then sendNext ok s else .go s
  | .read => if s.rxTarget = target then receive w s else .go s

/-- DW, a descriptor word (30_encoding R112). -/
def execDw (d : Word) (ok : Bool) (s : State) : Host.Outcome State Fault Refusal :=
  settle s (dataWord stCurveInfo .fromDesc .toDesc d ok s)

/-- PW, a setpoint word (30_encoding R112). -/
def execPw (p : Word) (ok : Bool) (s : State) : Host.Outcome State Fault Refusal :=
  settle s (dataWord stSetpoints .fromSp .toPending p ok s)

/-- REC: the whole 72-byte record, with the padding bytes it holds, through the host's write port of DESC; ignored
while busy (30_encoding R110, 20_memory R82, R90, 93_implementation_defined U15; log 11). -/
def execRecord (f : Fields) (pad0 pad1 : Byte) (s : State) : Host.Outcome State Fault Refusal :=
  .next (if hostOpen s then { s with desc := writeBytes s.desc 0 (f.bytes ++ [pad0, pad1]) } else s)

end Sys2Proof.Machine
end

