-- ==== Sys2Proof/Machine/Sequencer.lean ====
section
/-! DEFINITION. The protocol state machine (43_step_sequencer): the seven parts of a step and the arms of part 4. -/

namespace Sys2Proof.Machine

/-- Part 4 with `state == Init` (R206). -/
def armInit (s : State) : Flow :=
  .go (setCodes 0x0F 0x0F (if s.dir = .write then emit (.deleteCurveReq s.curveId) s else s))

/-- Part 4 with `state == SendCommand` (R207). -/
def armSendcmd (indexOk valueOk : Bool) (s : State) : Flow :=
  let s := setToggle true s
  (regWrite .indexOut indexOk (iwBits s.curveId) s).andThen fun s =>
  (regWrite .valueOut valueOk (sizeWord s) s).andThen fun s =>
  .go (setCodes 0x01 0x01 (armRxDesc (loadTxDesc s)))

/-- The cursors on entry to `CurveInfo` (R208). -/
def enterCurveinfo (s : State) : State :=
  match s.dir with
  | .write => loadTxDesc s
  | .read => armRxDesc s

/-- Part 4 with `state == CurveInfo` (R208). -/
def armCurveinfo (s : State) : Flow :=
  let s := flipToggle (if s.changedMode then enterCurveinfo s else s)
  .go (armResponse (setCodes (codeWithToggle 0x02 s) (codeWithToggle 0x402 s) s))

/-- Part 4 with `state == Setpoints`, up to the codes: the entry, or the re-entry (R210). -/
def enterSetpoints (s : State) : Flow :=
  if s.changedMode then
    let s := setToggle false s
    match s.dir with
    | .write => .go (loadTxSp s)
    | .read =>
      if s.rxCount.toNat ≠ descWords then raiseFail .responseSize 0 s
      else .go (armRxSp { s with spCount := 0 })
  else
    let s := flipToggle s
    match s.dir with
    | .write => .go s
    | .read => appendPending s

/-- Part 4 with `state == Setpoints` (R210). -/
def armSetpoints (s : State) : Flow :=
  (enterSetpoints s).andThen fun s =>
  .go (armResponse (setCodes (codeWithToggle 0x04 s) (codeWithToggle 0x404 s) s))

/-- `result <- Success; xfer_state <- Done; message <- MSG_DONE` (R212). -/
def reportSuccess (s : State) : State := { s with result := .success, xferState := .done, message := .done }

/-- What a read session does first in `Finished`: append the final pending setpoint, pulse `projection_req` (R212). -/
def finishRead (s : State) : Flow :=
  match s.dir with
  | .write => .go s
  | .read => (appendPending s).andThen fun s => .go (emit .projectionReq s)

/-- Part 4 with `state == Finished` (R212). -/
def armFinished (s : State) : Flow := (finishRead s).andThen fun s => .ended (reportSuccess s)

/-- Part 4 with any other value of `state` (R214). -/
def armUnknown (s : State) : Flow := raiseFail .unknownState 0 s

/-- What part 2 does with the status word once the timeout test has passed (R196, R201). -/
def actOnStatus (sw : Word) (s : State) : Flow :=
  match classify sw s with
  | .adv => .go (advance s)
  | .steady => .go s
  | .err => raiseFail .deviceError (codeByte sw) s
  | .nomatch => .ended s

/-- Part 2: performed only while a response is pending; first the timeout, then the status word (R201). -/
def part2 (sw : Word) (s : State) : Flow :=
  if s.waitingForStatus then (checkExpired (countLook s)).andThen (actOnStatus sw) else .go s

/-- Part 4: the arm of the possibly just-advanced state (R196, R203). -/
def part4 (c : Cycle) (s : State) : Flow :=
  if s.state = stInit then armInit s
  else if s.state = stSendCommand then armSendcmd c.indexWr c.valueWr s
  else if s.state = stCurveInfo then armCurveinfo s
  else if s.state = stSetpoints then armSetpoints s
  else if s.state = stFinished then armFinished s
  else armUnknown s

/-- Part 5: one word from the send cursor in the data phases of a write session (R204). -/
def part5 (c : Cycle) (s : State) : Flow :=
  if s.dir = .write ∧ (s.state = stCurveInfo ∨ s.state = stSetpoints) then sendNext c.valueWr s else .go s

/-- The seven parts of STEP, in order (R196, R197). -/
def stepParts (c : Cycle) (s : State) : Flow :=
  (regReads c (clearChanged s)).andThen fun s =>
  (part2 c.status s).andThen fun s =>
  (receive c.value s).andThen fun s =>
  (part4 c s).andThen fun s =>
  (part5 c s).andThen fun s =>
  emitControl c.controlWr s

/-- Run the step that is due: the seven parts, committed or rolled back (R196, R198). The lock is still held afterwards
(47_cycle_scheduler R288), and no step is due any more. -/
def runStep (c : Cycle) (s : State) : Host.Outcome State Fault Refusal :=
  settle (setLock .stepped s) (stepParts c (setLock .stepped s))

/-- STEP: performed by an engine that is busy (R195) and holds the lock with the step of a tick due; "a model must not run
two steps on one tick, nor a step without a tick" (70_reset_and_hazards R350, 47_cycle_scheduler R290), so elsewhere
nothing happens. -/
def stepOnce (c : Cycle) (s : State) : Host.Outcome State Fault Refusal :=
  if s.xferState = .busy ∧ s.lock = .held then runStep c s else .next s

/-- STEP (R196), under the lock, on the tick that made it due. -/
def execStep (c : Cycle) (s : State) : Host.Outcome State Fault Refusal := stepOnce c s

/-- STEP.INIT (R206): "part 4 with state == Init"; in another state part 4 runs another arm. -/
def execStepInit (s : State) : Host.Outcome State Fault Refusal :=
  settle s (if s.state = stInit then armInit s else .go s)

/-- STEP.SENDCMD (R207). -/
def execStepSendcmd (indexOk valueOk : Bool) (s : State) : Host.Outcome State Fault Refusal :=
  settle s (if s.state = stSendCommand then armSendcmd indexOk valueOk s else .go s)

/-- STEP.CURVEINFO (R208). -/
def execStepCurveinfo (s : State) : Host.Outcome State Fault Refusal :=
  settle s (if s.state = stCurveInfo then armCurveinfo s else .go s)

/-- STEP.SETPOINTS (R210). -/
def execStepSetpoints (s : State) : Host.Outcome State Fault Refusal :=
  settle s (if s.state = stSetpoints then armSetpoints s else .go s)

/-- STEP.FINISHED (R212). -/
def execStepFinished (s : State) : Host.Outcome State Fault Refusal :=
  settle s (if s.state = stFinished then armFinished s else .go s)

/-- STEP.UNKNOWN (R214): `state` is none of 0 to 4. -/
def execStepUnknown (s : State) : Host.Outcome State Fault Refusal :=
  settle s (if s.state.toNat ≤ 4 then .go s else armUnknown s)

end Sys2Proof.Machine
end

