-- ==== Sys2Proof/Machine/Scheduler.lean ====
section
/-! DEFINITION. The cycle scheduler: tick and lock (47_cycle_scheduler), and RESET (70_reset_and_hazards R340). -/

namespace Sys2Proof.Machine

/-- The lock is given back once the step has ended, however it ended (R288); a lock that is not held after its step is
left as it is (DESIGN CHOICE, log 9). -/
def giveBack (s : State) : State := if s.lock = .stepped then setLock .free s else s

/-- The lock granted or not to a step that waits for it (R288: "while the lock is not granted the step waits"). Where no
step of a busy engine waits nothing happens (DESIGN CHOICE, log 9). -/
def askLock (granted : Bool) (s : State) : State :=
  if granted = true ∧ s.xferState = .busy ∧ s.lock = .waiting then setLock .held s else s

/-- What follows a step that answered a next state. -/
def afterStep (f : State → State) (x : Host.Outcome State Fault Refusal) : Host.Outcome State Fault Refusal :=
  match x with
  | .next s => .next (f s)
  | .fault e => .fault e
  | .refused r => .refused r

/-- LOCK.ACQ, then, where the lock was granted, STEP and LOCK.REL (R285, R288). A step whose lock is not granted keeps
waiting. -/
def lockedStep (c : Cycle) (granted : Bool) (s : State) : Host.Outcome State Fault Refusal :=
  afterStep giveBack (stepOnce c (askLock granted s))

/-- TICK (R285): nothing for an engine that is not busy (R286); else its step is due, and is run under the lock. A tick
during a step is outside the model's domain (93_implementation_defined U13). -/
def execTick (c : Cycle) (granted : Bool) (s : State) : Host.Outcome State Fault Refusal :=
  if s.xferState = .busy then
    if s.lock = .free then lockedStep c granted (setLock .waiting s) else .refused .tickOverrun
  else .next s

/-- TICK.IDLE (R286): a tick while `xfer_state` is not `Busy` does nothing. A tick of a busy engine is TICK (R285); that
the row TICK.IDLE performed there changes nothing either is the model's choice (DESIGN CHOICE, log 11). -/
def execTickIdle (s : State) : Host.Outcome State Fault Refusal := .next s

/-- LOCK.ACQ (R288). -/
def execLockAcq (granted : Bool) (s : State) : Host.Outcome State Fault Refusal := .next (askLock granted s)

/-- LOCK.REL (R288). -/
def execLockRel (s : State) : Host.Outcome State Fault Refusal := .next (giveBack s)

/-- RESET (70_reset_and_hazards R340). -/
def execReset (s : State) : Host.Outcome State Fault Refusal := .next (resetRegisters s)

end Sys2Proof.Machine
end

