-- ==== Sys2Proof/Machine/Serializer.lean ====
section
/-! DEFINITION. The word serializer (45_word_serializer). -/

namespace Sys2Proof.Machine

/-- TX.LOAD.DESC (R250). -/
def execTxLoadDesc (s : State) : Host.Outcome State Fault Refusal := .next (loadTxDesc s)

/-- TX.LOAD.SP (R250). -/
def execTxLoadSp (s : State) : Host.Outcome State Fault Refusal := .next (loadTxSp s)

/-- TX.NEXT (R251, R252). -/
def execTxNext (ok : Bool) (s : State) : Host.Outcome State Fault Refusal := settle s (sendNext ok s)

/-- RX.ARM.DESC (R254). -/
def execRxArmDesc (s : State) : Host.Outcome State Fault Refusal := .next (armRxDesc s)

/-- RX.ARM.SP (R254). -/
def execRxArmSp (s : State) : Host.Outcome State Fault Refusal := .next (armRxSp s)

/-- RX.PUSH (R255, R259). -/
def execRxPush (vin : Word) (s : State) : Host.Outcome State Fault Refusal := settle s (receive vin s)

/-- SP.APPEND (R258). -/
def execSpAppend (s : State) : Host.Outcome State Fault Refusal := settle s (appendPending s)

end Sys2Proof.Machine
end

