-- ==== Sys2Proof/Machine/Status.lean ====
section
/-! DEFINITION. The status-word rows SW.* (44_toggle_status_decode R241 to R244): what part 2 of a step does with a
status word of the row. A row acts where the engine waits in the row's state and the word is of the row's class
there (R236); elsewhere the word is not the row's and the row does nothing (log 11). -/

namespace Sys2Proof.Machine

/-- The engine waits in this state and the word is of this class (R236: "only while `waiting_for_status == 1`"). -/
def swHere (st : BitVec 3) (c : SwClass) (sw : Word) (s : State) : Bool :=
  s.waitingForStatus && decide (s.state = st) && decide (classify sw s = c)

/-- Class ADV (R237). -/
def swAdv (st : BitVec 3) (sw : Word) (s : State) : Flow :=
  .go (if swHere st .adv sw s then advance s else s)

/-- Class STEADY: "Nothing is written in part 2" (R238). -/
def swSteady (s : State) : Flow := .go s

/-- Class ERR: fail with the word's code byte (R240, 46_timeout_error R275). -/
def swErr (st : BitVec 3) (sw : Word) (s : State) : Flow :=
  if swHere st .err sw s then raiseFail .deviceError (codeByte sw) s else .go s

/-- Class NOMATCH: the step ends and nothing is written (R239). -/
def swNomatch (st : BitVec 3) (sw : Word) (s : State) : Flow :=
  if swHere st .nomatch sw s then .ended s else .go s

/-- SW.INIT.ADV (R241). -/
def execSwInitAdv (s : State) : Host.Outcome State Fault Refusal := settle s (swAdv stInit 0x0F s)

/-- SW.INIT.STEADY: the empty class, no word (R241). -/
def execSwInitSteady (s : State) : Host.Outcome State Fault Refusal := settle s (swSteady s)

/-- SW.INIT.ERR (R241). -/
def execSwInitErr (u : Half) (c : Byte) (s : State) : Host.Outcome State Fault Refusal :=
  settle s (swErr stInit (swBits u c 0x0F) s)

/-- SW.INIT.NOMATCH (R241). -/
def execSwInitNomatch (sw : Word) (s : State) : Host.Outcome State Fault Refusal := settle s (swNomatch stInit sw s)

/-- SW.SENDCMD.ADV (R242). -/
def execSwSendcmdAdv (s : State) : Host.Outcome State Fault Refusal := settle s (swAdv stSendCommand 0x01 s)

/-- SW.SENDCMD.STEADY: the empty class, no word (R242). -/
def execSwSendcmdSteady (s : State) : Host.Outcome State Fault Refusal := settle s (swSteady s)

/-- SW.SENDCMD.ERR (R242). -/
def execSwSendcmdErr (u : Half) (c : Byte) (s : State) : Host.Outcome State Fault Refusal :=
  settle s (swErr stSendCommand (swBits u c 0x01) s)

/-- SW.SENDCMD.NOMATCH (R242). -/
def execSwSendcmdNomatch (sw : Word) (s : State) : Host.Outcome State Fault Refusal :=
  settle s (swNomatch stSendCommand sw s)

/-- SW.CURVEINFO.ADV (R243). -/
def execSwCurveinfoAdv (t : Bool) (s : State) : Host.Outcome State Fault Refusal :=
  settle s (swAdv stCurveInfo (0x02 + bit 32 t) s)

/-- SW.CURVEINFO.STEADY (R243). The word of the row is `0x402 + t`; where it is the steady code, nothing is written. -/
def execSwCurveinfoSteady (_t : Bool) (s : State) : Host.Outcome State Fault Refusal := settle s (swSteady s)

/-- SW.CURVEINFO.ERR (R243). -/
def execSwCurveinfoErr (u : Half) (c : Byte) (t : Bool) (s : State) : Host.Outcome State Fault Refusal :=
  settle s (swErr stCurveInfo (swBits u c (echoOf 0x02 t)) s)

/-- SW.CURVEINFO.NOMATCH (R243). -/
def execSwCurveinfoNomatch (sw : Word) (s : State) : Host.Outcome State Fault Refusal :=
  settle s (swNomatch stCurveInfo sw s)

/-- SW.SETPOINTS.ADV (R244). -/
def execSwSetpointsAdv (t : Bool) (s : State) : Host.Outcome State Fault Refusal :=
  settle s (swAdv stSetpoints (0x04 + bit 32 t) s)

/-- SW.SETPOINTS.STEADY (R244). The word of the row is `0x404 + t`; where it is the steady code, nothing is written. -/
def execSwSetpointsSteady (_t : Bool) (s : State) : Host.Outcome State Fault Refusal := settle s (swSteady s)

/-- SW.SETPOINTS.ERR (R244). -/
def execSwSetpointsErr (u : Half) (c : Byte) (t : Bool) (s : State) : Host.Outcome State Fault Refusal :=
  settle s (swErr stSetpoints (swBits u c (echoOf 0x04 t)) s)

/-- SW.SETPOINTS.NOMATCH (R244). -/
def execSwSetpointsNomatch (sw : Word) (s : State) : Host.Outcome State Fault Refusal :=
  settle s (swNomatch stSetpoints sw s)

end Sys2Proof.Machine
end

