-- ==== Sys2Proof/Machine/Toggle.lean ====
section
/-! DEFINITION. The toggle operations and the classifier (44_toggle_status_decode R230 to R236). -/

namespace Sys2Proof.Machine

/-- TOGGLE.SET1 (R230). -/
def execToggleSet1 (s : State) : Host.Outcome State Fault Refusal := .next (setToggle true s)

/-- TOGGLE.FLIP in CurveInfo (R231). -/
def execToggleFlipCurveinfo (s : State) : Host.Outcome State Fault Refusal := .next (flipToggle s)

/-- TOGGLE.RESET0 (R232). -/
def execToggleReset0 (s : State) : Host.Outcome State Fault Refusal := .next (setToggle false s)

/-- TOGGLE.FLIP in Setpoints (R233). -/
def execToggleFlipSetpoints (s : State) : Host.Outcome State Fault Refusal := .next (flipToggle s)

/-- CLASSIFY (R236): the class, to the answer port; "Flags written: none by the function itself". -/
def execClassify (sw : Word) (s : State) : Host.Outcome State Fault Refusal :=
  .next (answering (.sw (classify sw s)) s)

end Sys2Proof.Machine
end

