-- ==== Sys2Proof/Machine/Dispatch.lean ====
section
/-! DEFINITION. The dispatch: one arm per row of spec/opcode_table.json, in the table's order. -/

namespace Sys2Proof.Machine

/-- What one operation does. -/
def exec (i : Instr) (s : State) : Host.Outcome State Fault Refusal :=
  match i with
  | .cwInit w ok => Sys2Proof.Machine.execCwInit w ok s
  | .cwSendcmdW m ok => Sys2Proof.Machine.execCwSendcmdW m ok s
  | .cwSendcmdR m ok => Sys2Proof.Machine.execCwSendcmdR m ok s
  | .cwCurveinfoW m t ok => Sys2Proof.Machine.execCwCurveinfoW m t ok s
  | .cwCurveinfoR m t ok => Sys2Proof.Machine.execCwCurveinfoR m t ok s
  | .cwSetpointsW m t ok => Sys2Proof.Machine.execCwSetpointsW m t ok s
  | .cwSetpointsR m t ok => Sys2Proof.Machine.execCwSetpointsR m t ok s
  | .swInitAdv => Sys2Proof.Machine.execSwInitAdv s
  | .swInitSteady => Sys2Proof.Machine.execSwInitSteady s
  | .swInitErr u c => Sys2Proof.Machine.execSwInitErr u c s
  | .swInitNomatch sw => Sys2Proof.Machine.execSwInitNomatch sw s
  | .swSendcmdAdv => Sys2Proof.Machine.execSwSendcmdAdv s
  | .swSendcmdSteady => Sys2Proof.Machine.execSwSendcmdSteady s
  | .swSendcmdErr u c => Sys2Proof.Machine.execSwSendcmdErr u c s
  | .swSendcmdNomatch sw => Sys2Proof.Machine.execSwSendcmdNomatch sw s
  | .swCurveinfoAdv t => Sys2Proof.Machine.execSwCurveinfoAdv t s
  | .swCurveinfoSteady t => Sys2Proof.Machine.execSwCurveinfoSteady t s
  | .swCurveinfoErr u c t => Sys2Proof.Machine.execSwCurveinfoErr u c t s
  | .swCurveinfoNomatch sw => Sys2Proof.Machine.execSwCurveinfoNomatch sw s
  | .swSetpointsAdv t => Sys2Proof.Machine.execSwSetpointsAdv t s
  | .swSetpointsSteady t => Sys2Proof.Machine.execSwSetpointsSteady t s
  | .swSetpointsErr u c t => Sys2Proof.Machine.execSwSetpointsErr u c t s
  | .swSetpointsNomatch sw => Sys2Proof.Machine.execSwSetpointsNomatch sw s
  | .iw id ok => Sys2Proof.Machine.execIw id ok s
  | .bw n ok => Sys2Proof.Machine.execBw n ok s
  | .dw d ok => Sys2Proof.Machine.execDw d ok s
  | .pw p ok => Sys2Proof.Machine.execPw p ok s
  | .record f pad0 pad1 => Sys2Proof.Machine.execRecord f pad0 pad1 s
  | .pack f => Sys2Proof.Machine.execPack f s
  | .unpack => Sys2Proof.Machine.execUnpack s
  | .setName t => Sys2Proof.Machine.execSetName t s
  | .blocksize n => Sys2Proof.Machine.execBlocksize n s
  | .dump => Sys2Proof.Machine.execDump s
  | .xlenEncode n dt => Sys2Proof.Machine.execXlenEncode n dt s
  | .xlenDecode x n => Sys2Proof.Machine.execXlenDecode x n s
  | .posEncode k p => Sys2Proof.Machine.execPosEncode k p s
  | .posDecode w => Sys2Proof.Machine.execPosDecode w s
  | .project a => Sys2Proof.Machine.execProject a s
  | .reqWrite id count xlenOk => Sys2Proof.Machine.execReqWrite id count xlenOk s
  | .reqRead id => Sys2Proof.Machine.execReqRead id s
  | .sessionInit => Sys2Proof.Machine.execSessionInit s
  | .rejBusy r => Sys2Proof.Machine.execRejBusy r s
  | .rejInvalidId r => Sys2Proof.Machine.execRejInvalidId r s
  | .rejInvalidDuration r => Sys2Proof.Machine.execRejInvalidDuration r s
  | .rejInvalidCount r => Sys2Proof.Machine.execRejInvalidCount r s
  | .sinkRead => Sys2Proof.Machine.execSinkRead s
  | .step c => Sys2Proof.Machine.execStep c s
  | .stepInit => Sys2Proof.Machine.execStepInit s
  | .stepSendcmd indexOk valueOk => Sys2Proof.Machine.execStepSendcmd indexOk valueOk s
  | .stepCurveinfo => Sys2Proof.Machine.execStepCurveinfo s
  | .stepSetpoints => Sys2Proof.Machine.execStepSetpoints s
  | .stepFinished => Sys2Proof.Machine.execStepFinished s
  | .stepUnknown => Sys2Proof.Machine.execStepUnknown s
  | .toggleSet1 => Sys2Proof.Machine.execToggleSet1 s
  | .toggleFlipCurveinfo => Sys2Proof.Machine.execToggleFlipCurveinfo s
  | .toggleReset0 => Sys2Proof.Machine.execToggleReset0 s
  | .toggleFlipSetpoints => Sys2Proof.Machine.execToggleFlipSetpoints s
  | .classify sw => Sys2Proof.Machine.execClassify sw s
  | .txLoadDesc => Sys2Proof.Machine.execTxLoadDesc s
  | .txLoadSp => Sys2Proof.Machine.execTxLoadSp s
  | .txNext ok => Sys2Proof.Machine.execTxNext ok s
  | .rxArmDesc => Sys2Proof.Machine.execRxArmDesc s
  | .rxArmSp => Sys2Proof.Machine.execRxArmSp s
  | .rxPush vin => Sys2Proof.Machine.execRxPush vin s
  | .spAppend => Sys2Proof.Machine.execSpAppend s
  | .tmoTick => Sys2Proof.Machine.execTmoTick s
  | .tmoExpire => Sys2Proof.Machine.execTmoExpire s
  | .tmoArm => Sys2Proof.Machine.execTmoArm s
  | .errDevice sw => Sys2Proof.Machine.execErrDevice sw s
  | .fail cause code => Sys2Proof.Machine.execFail cause code s
  | .tick c granted => Sys2Proof.Machine.execTick c granted s
  | .tickIdle => Sys2Proof.Machine.execTickIdle s
  | .lockAcq granted => Sys2Proof.Machine.execLockAcq granted s
  | .lockRel => Sys2Proof.Machine.execLockRel s
  | .reset => Sys2Proof.Machine.execReset s

end Sys2Proof.Machine
end

