-- ==== Sys2Proof/Machine/Script.lean ====
section
/-! DEFINITION. Taking the next event from the front of the script (30_encoding R117; log 1). -/

namespace Sys2Proof.Machine

/-- What stands at the front of the script, with the state that has taken it off. -/
inductive Fetched where
  /-- The script is at its end. -/
  | nothing
  /-- An operation. -/
  | op (i : Instr) (s : State)
  /-- A host write. -/
  | write (w : HostWrite) (s : State)
  /-- A host read. -/
  | read (r : HostRead) (s : State)
  /-- No frame. -/
  | bad (r : Reject)
  deriving DecidableEq, Repr

/-- The state with this script. -/
def withScript (bs : List Byte) (s : State) : State := { s with script := bs }

/-- Take the next event off the script. -/
def fetch (s : State) : Fetched :=
  if s.script = [] then .nothing
  else match decodeEvent s.script with
    | .ok (.instr i, rest) => .op i (withScript rest s)
    | .ok (.host w, rest) => .write w (withScript rest s)
    | .ok (.read r, rest) => .read r (withScript rest s)
    | .error r => .bad r

/-- A script of one frame, a word alone: bits at and above `nbits` are 0. -/
def tableScript (nbits w : Nat) : List Byte := bareFrame (w % 2 ^ nbits)

end Sys2Proof.Machine
end

