-- ==== Sys2Proof/Machine/Step.lean ====
section
/-! DEFINITION. One step of the machine: the next event of the script happens. -/

namespace Sys2Proof.Machine

/-- One event: nothing at the end of the script; else the operation, host write or host read at its front; a script whose
next bytes are no frame is refused. -/
def step (s : State) : Host.Outcome State Fault Refusal :=
  match fetch s with
  | .nothing => .next s
  | .op i t => exec i t
  | .write w t => execHostWrite w t
  | .read r t => execHostRead r t
  | .bad r => .refused (.badFrame r)

/-- The machine with a word alone as its whole script: the next step runs the operation the word decodes to (log 1). -/
def State.withFetchWord (s : State) (nbits w : Nat) : State := withScript (tableScript nbits w) s

end Sys2Proof.Machine
end

