-- ==== Sys2Proof/Safety.lean ====
section
/-! DEFINITION. What claims speak of: the invariant of the machine, the invariant of a session, the events the
hardware's surroundings can cause, and the bytes a store reaches. -/

namespace Sys2Proof.Machine

/-- The bytes `a` to `a + n - 1`. -/
def inBytes (a n x : Nat) : Prop := a ≤ x ∧ x < a + n

/-- The invariant of the registers' ranges (10_state R32, R34 to R37, R42; 20_memory R70). It is kept by every
operation, from every state that meets it. -/
structure Kept (s : State) : Prop where
  /-- The parameters lie in their ranges (00_scope R9). -/
  params : s.params.wf = true
  /-- DESC is in canonical form. -/
  descForm : Memory.wf s.desc = true
  /-- DESC has 72 bytes (R32). -/
  descRange : Memory.below descBytes s.desc = true
  /-- SP is in canonical form. -/
  spForm : Memory.wf s.sp = true
  /-- SP has MAX_SETPOINTS words (R34). -/
  spRange : Memory.below (4 * s.params.maxSetpoints) s.sp = true
  /-- `0 <= sp_count <= MAX_SETPOINTS` (R35). -/
  count : s.spCount.toNat ≤ s.params.maxSetpoints
  /-- `tx_pos <= tx_len` (R36). -/
  cursor : s.txPos.toNat ≤ s.txLen.toNat
  /-- The cursor over DESC stays in its 18 words. -/
  descCursor : s.txSrc = .fromDesc → s.txLen.toNat ≤ descWords
  /-- The cursor over SP stays in SP. -/
  spCursor : s.txSrc = .fromSp → s.txLen.toNat ≤ s.params.maxSetpoints
  /-- The words received do not exceed the capacity (R37). -/
  received : s.rxCount.toNat ≤ s.rxCap.toNat
  /-- The capacity is at most 18 words (R37). -/
  capacity : s.rxCap.toNat ≤ descWords
  /-- `error_code` is 0 unless the failure is the device's (R42). -/
  errorCode : s.failReason ≠ .cause .deviceError → s.errorCode = 0

/-- The registers the protocol itself relates, in each transfer state, between two events (43_step_sequencer R213,
R215; 44_toggle_status_decode R241 to R244; 45_word_serializer R257; 46_timeout_error R273; 47_cycle_scheduler R286; 60_exceptions R310). -/
structure Session (s : State) : Prop where
  /-- After reset nothing runs: `state` is `Init`, no failure is recorded. -/
  idle : s.xferState = .idle → s.state = stInit ∧ s.failReason = .none ∧ s.result = .success ∧ s.message = .none
  /-- A session in flight is in one of the four phases, and records no result. -/
  busy : s.xferState = .busy →
    s.state.toNat ≤ 3 ∧ s.failReason = .none ∧ s.result = .success ∧ s.message = .busy
  /-- A session that has ended is `Finished` with success, or `Failed` with a cause and its message. -/
  done : s.xferState = .done →
    (s.state = stFinished ∧ s.failReason = .none ∧ s.result = .success ∧ s.message = .done) ∨
    (s.state = stFailed ∧ s.result = .failure ∧ ∃ k, s.failReason = .cause k ∧ s.message = causeMessage k)
  /-- The curve id is in its range (10_state R24). -/
  curveId : s.xferState = .busy → 1 ≤ s.curveId.toNat ∧ s.curveId.toNat ≤ s.params.maxCurveId
  /-- Every phase but `Init` waits for an answer (10_state R26). -/
  waits : s.xferState = .busy → s.state ≠ stInit → s.waitingForStatus = true
  /-- The two codes of `Init`. -/
  codesInit : s.xferState = .busy → s.state = stInit → s.waitingForStatus = true →
    s.nextModeStatus = 0x0F ∧ s.expectedStatus = 0x0F
  /-- The two codes of `SendCommand`, and its toggle. -/
  codesSend : s.xferState = .busy → s.state = stSendCommand →
    s.toggle = true ∧ s.nextModeStatus = 0x01 ∧ s.expectedStatus = 0x01
  /-- The two codes of `CurveInfo`. -/
  codesCurve : s.xferState = .busy → s.state = stCurveInfo →
    s.nextModeStatus = 0x02 + bit 32 s.toggle ∧ s.expectedStatus = 0x402 + bit 32 s.toggle
  /-- The two codes of `Setpoints`. -/
  codesSet : s.xferState = .busy → s.state = stSetpoints →
    s.nextModeStatus = 0x04 + bit 32 s.toggle ∧ s.expectedStatus = 0x404 + bit 32 s.toggle
  /-- Reception is armed in the data phases of a read session and nowhere else (10_state R28). -/
  response : s.xferState = .busy →
    (s.bufferResponse = true ↔ s.dir = .read ∧ (s.state = stCurveInfo ∨ s.state = stSetpoints))
  /-- No setpoint is pending between steps (45_word_serializer R257). -/
  pending : s.xferState = .busy → s.rxPendingValid = false
  /-- The device has not used up its looks (46_timeout_error R272). -/
  looks : s.xferState = .busy → s.timeoutCtr.toNat ≤ s.params.timeoutCycles
  /-- `timeout_ctr` never exceeds TIMEOUT_CYCLES + 1 (46_timeout_error R273). -/
  counter : s.timeoutCtr.toNat ≤ s.params.timeoutCycles + 1
  /-- In `CurveInfo` a read session receives into DESC, a write session sends from DESC. -/
  curveInfo : s.xferState = .busy → s.state = stCurveInfo →
    (s.dir = .read → s.rxTarget = .toDesc ∧ s.rxCap = 18) ∧ (s.dir = .write → s.txSrc = .fromDesc ∧ s.txLen = 18)
  /-- In `Setpoints` a read session receives setpoints, after a whole descriptor; a write session sends from SP. -/
  setpoints : s.xferState = .busy → s.state = stSetpoints →
    (s.dir = .read → s.rxTarget = .toPending ∧ s.rxCount = 18) ∧
    (s.dir = .write → s.txSrc = .fromSp ∧ s.txLen = s.spCount)
  /-- A step is due only in an engine that is busy (47_cycle_scheduler R285, R286). -/
  due : s.lock = .waiting ∨ s.lock = .held → s.xferState = .busy
  /-- In a write session DESC describes the curve being sent (40_descriptor_codec R143, 43_step_sequencer R207). -/
  described : s.xferState = .busy → s.dir = .write →
    rd16 s.desc 4 = s.spCount ∧ rd16 s.desc 30 = s.curveId ∧ 1 ≤ s.spCount.toNat

/-- The operations the surroundings of an engine can cause: the host's, the tick and the lock with the step between
them, and `rst`. The others are parts of these, which the hardware performs only inside them. -/
def outside : Instr → Bool
  | .record _ _ _ => true
  | .unpack => true
  | .setName _ => true
  | .blocksize _ => true
  | .dump => true
  | .xlenEncode _ _ => true
  | .xlenDecode _ _ => true
  | .posEncode _ _ => true
  | .posDecode _ => true
  | .project _ => true
  | .reqWrite _ _ _ => true
  | .reqRead _ => true
  | .rejBusy _ => true
  | .rejInvalidId _ => true
  | .rejInvalidDuration _ => true
  | .rejInvalidCount _ => true
  | .sinkRead => true
  | .step _ => true
  | .classify _ => true
  | .tick _ _ => true
  | .tickIdle => true
  | .lockAcq _ => true
  | .lockRel => true
  | .reset => true
  | .cwInit _ _ => false
  | .cwSendcmdW _ _ => false
  | .cwSendcmdR _ _ => false
  | .cwCurveinfoW _ _ _ => false
  | .cwCurveinfoR _ _ _ => false
  | .cwSetpointsW _ _ _ => false
  | .cwSetpointsR _ _ _ => false
  | .swInitAdv => false
  | .swInitSteady => false
  | .swInitErr _ _ => false
  | .swInitNomatch _ => false
  | .swSendcmdAdv => false
  | .swSendcmdSteady => false
  | .swSendcmdErr _ _ => false
  | .swSendcmdNomatch _ => false
  | .swCurveinfoAdv _ => false
  | .swCurveinfoSteady _ => false
  | .swCurveinfoErr _ _ _ => false
  | .swCurveinfoNomatch _ => false
  | .swSetpointsAdv _ => false
  | .swSetpointsSteady _ => false
  | .swSetpointsErr _ _ _ => false
  | .swSetpointsNomatch _ => false
  | .iw _ _ => false
  | .bw _ _ => false
  | .dw _ _ => false
  | .pw _ _ => false
  | .pack _ => false
  | .sessionInit => false
  | .stepInit => false
  | .stepSendcmd _ _ => false
  | .stepCurveinfo => false
  | .stepSetpoints => false
  | .stepFinished => false
  | .stepUnknown => false
  | .toggleSet1 => false
  | .toggleFlipCurveinfo => false
  | .toggleReset0 => false
  | .toggleFlipSetpoints => false
  | .txLoadDesc => false
  | .txLoadSp => false
  | .txNext _ => false
  | .rxArmDesc => false
  | .rxArmSp => false
  | .rxPush _ => false
  | .spAppend => false
  | .tmoTick => false
  | .tmoExpire => false
  | .tmoArm => false
  | .errDevice _ => false
  | .fail _ _ => false

/-- The operation is a STEP or a TICK that brings this cycle: the two that can run a step. -/
def brings (c : Cycle) (i : Instr) : Prop := i = .step c ∨ ∃ g, i = .tick c g

/-- The next event of the script is one the surroundings can cause, or there is none. -/
def nextOutside (s : State) : Bool :=
  match fetch s with
  | .op i _ => outside i
  | .nothing => true
  | .write _ _ => true
  | .read _ _ => true
  | .bad _ => true

/-- The events a step added to the log, given the log before. -/
def added (before after : List OutEvent) : List OutEvent := after.drop before.length

/-- The result of a write to each endpoint in one cycle. -/
def writeOk (c : Cycle) : OutPort → Bool
  | .controlWord => c.controlWr
  | .indexOut => c.indexWr
  | .valueOut => c.valueWr

/-- The cycle in which every write succeeds. -/
def writesOk (c : Cycle) : Cycle := { c with indexWr := true, valueWr := true, controlWr := true }

/-- The event is a side output, or an endpoint write that succeeds in this cycle. -/
def passes (c : Cycle) : OutEvent → Bool
  | .write p _ => writeOk c p
  | .deleteCurveReq _ => true
  | .projectionReq => true

/-- Both reads of the cycle succeed. -/
def readsOk (c : Cycle) : Prop := c.statusOk = true ∧ c.valueOk = true

/-- A memory holds this record: every field little-endian at its offset (30_encoding R110). -/
structure HoldsRecord (m : Memory) (f : Fields) : Prop where
  /-- Offset 0. -/
  dataOffset : rd16 m 0 = f.dataOffset
  /-- Offset 2. -/
  objectType : rd16 m 2 = f.objectType
  /-- Offset 4. -/
  numSetpoints : rd16 m 4 = f.numSetpoints
  /-- Offset 6. -/
  dataTypeSize : rd16 m 6 = f.dataTypeSize
  /-- Offsets 8 to 29. -/
  name : ∀ k : Fin 22, readByte m (8 + k.val) = f.name[k.val]
  /-- Offset 30. -/
  curveId : rd16 m 30 = f.curveId
  /-- Offset 32. -/
  xLength : rd32 m 32 = f.xLength
  /-- Offset 36. -/
  xDimUuid : rd16 m 36 = f.xDimUuid
  /-- Offset 38. -/
  yDimUuid : rd16 m 38 = f.yDimUuid
  /-- Offset 40. -/
  wizardType : rd16 m 40 = f.wizardType
  /-- Offsets 42, 46, .., 66. -/
  wizardParams : ∀ j : Fin 7, rd32 m (42 + 4 * j.val) = f.wizardParams[j.val]

/-- The words a log wrote to one endpoint, in order. -/
def wordsTo (p : OutPort) (l : List OutEvent) : List Word :=
  l.filterMap fun e =>
    match e with
    | .write q w => if q = p then some w else none
    | .deleteCurveReq _ => none
    | .projectionReq => none

/-- A cycle in which every read and write succeeds. -/
def goodCycle (status value : Word) : Cycle :=
  { statusOk := true, status := status, valueOk := true, value := value, indexWr := true, valueWr := true,
    controlWr := true }

/-- The answer of a device that takes every word of a write session: the advance code once the words of the phase are
sent, the steady code before (43_step_sequencer R216). -/
def takingStatus (s : State) : Word :=
  if s.state = stInit ∨ s.state = stSendCommand then s.nextModeStatus
  else if s.txPos.toNat < s.txLen.toNat then s.expectedStatus
  else s.nextModeStatus

/-- `k` granted ticks of a write session with such a device. -/
def takingRun : Nat → State → Host.Outcome State Fault Refusal
  | 0, s => .next s
  | k + 1, s =>
    match exec (.tick (goodCycle (takingStatus s) 0) true) s with
    | .next t => takingRun k t
    | .fault e => .fault e
    | .refused r => .refused r

/-- What a device answers that gives the words `d` of a descriptor and the setpoints `p` of a read session: the word
that comes next, with the steady code, or with the advance code if it is the last of its phase (R216). -/
def givingCycle (d : Nat → Word) (p : List Word) (s : State) : Cycle :=
  if s.state = stInit ∨ s.state = stSendCommand then goodCycle s.nextModeStatus 0
  else if s.state = stCurveInfo then
    goodCycle (if s.rxCount.toNat < 17 then s.expectedStatus else s.nextModeStatus) (d s.rxCount.toNat)
  else
    goodCycle (if s.spCount.toNat + 1 < p.length then s.expectedStatus else s.nextModeStatus)
      (p.getD s.spCount.toNat 0)

/-- `k` granted ticks of a read session with such a device. -/
def givingRun (d : Nat → Word) (p : List Word) : Nat → State → Host.Outcome State Fault Refusal
  | 0, s => .next s
  | k + 1, s =>
    match exec (.tick (givingCycle d p s) true) s with
    | .next t => givingRun d p k t
    | .fault e => .fault e
    | .refused r => .refused r

end Sys2Proof.Machine
end

