-- ==== Sys2Proof/Certificates/Slice0/Obligations.lean ====
section
/-! DEFINITION. The statements for the provers, one `def Obligations.<Name> : Prop` each. -/

open Sys2Proof Sys2Proof.Machine

/-- For every well-formed operation, every host write, every host read and every byte string after it, the decoder
reads from its encoding exactly that operation, write or read, with every operand, and leaves what follows. The
frame around the words of 30_encoding is the model's own (log 1). Rests on 30_encoding R101, 30_encoding R104,
30_encoding R108, 30_encoding R109, 30_encoding R110, 30_encoding R112, 30_encoding R117. -/
def Obligations.DecodeGivesBackWhatWasEncoded : Prop :=
    (∀ (i : Instr) (rest : List Byte), i.wf = true →
      decode (encode i ++ rest) = .ok (i, rest) ∧ decodeEvent (encode i ++ rest) = .ok (.instr i, rest)) ∧
    (∀ (w : HostWrite) (rest : List Byte), decodeEvent (encodeHost w ++ rest) = .ok (.host w, rest)) ∧
    (∀ (r : HostRead) (rest : List Byte), decodeEvent (encodeRead r ++ rest) = .ok (.read r, rest))

/-- Every operation the decoder reads from any byte string is well-formed: an error word carries a code byte other
than 0 and is no steady code, and a word of class NOMATCH of Init or SendCommand is in no other class of its
state. Of the NOMATCH words of the two data phases nothing is said: their class depends on the toggle, and every
word is NOMATCH for some toggle. Rests on 30_encoding R113, 44_toggle_status_decode R241,
44_toggle_status_decode R242, 44_toggle_status_decode R243, 44_toggle_status_decode R244. -/
def Obligations.DecodedOperationIsWellFormed : Prop :=
    ∀ (bs rest : List Byte) (i : Instr), decode bs = .ok (i, rest) → i.wf = true

/-- Whatever row the decoder names for a word alone, the row's word, built from the decoded operands by the tables
of 30_encoding, is that word: no bit is dropped and none is misread. Rests on 30_encoding R104, 30_encoding
R105, 30_encoding R108, 30_encoding R109. -/
def Obligations.BareWordDecodesToARowWithItsBits : Prop :=
    ∀ (w : Word) (i : Instr), decodeBare w = some i → wordOf i = some w

/-- The advance code of Init, the steady code of CurveInfo with toggle 1, the error words 0x0000C00F, 0x0000D002 and
0x0000C505, the block-size word of 3 setpoints and the index word of curve 7 decode to the rows the spec gives
them. That a word alone, with no state beside it, is read by its status code first, then as BW, then as IW (so
0x0F as SW.INIT.ADV and 0x07 as an index word) is the model's choice (log 1). Rests on 30_encoding R105,
30_encoding R108, 30_encoding R109, 44_toggle_status_decode R241, 44_toggle_status_decode R243. -/
def Obligations.WordsOfTheSpecDecodeToTheirRows : Prop :=
    decodeTableWord 32 0x0000000F = some .swInitAdv ∧
    decodeTableWord 32 0x00000403 = some (.swCurveinfoSteady true) ∧
    decodeTableWord 32 0x0000C00F = some (.swInitErr 0 0xC0) ∧
    decodeTableWord 32 0x0000D002 = some (.swCurveinfoErr 0 0xD0 false) ∧
    decodeTableWord 32 0x0000C505 = some (.swSetpointsErr 0 0xC5 true) ∧
    decodeTableWord 32 0x000C0046 = some (.bw 3 true) ∧
    decodeTableWord 32 0x00000007 = some (.iw 7 true)

/-- Where the script begins with bytes that decode to an operation, the step is that operation on the state with
these bytes taken off the script; where they decode to a host write or a host read, it is that write or read; at
the end of the script nothing happens; bytes that are no frame are refused. The script as bytes is the model's
choice (log 1). Rests on 30_encoding R117. -/
def Obligations.StepRunsTheDecodedEvent : Prop :=
    ∀ (s : State),
    (∀ (i : Instr) (rest : List Byte), decode s.script = .ok (i, rest) →
      step s = exec i { s with script := rest }) ∧
    (∀ (w : HostWrite) (rest : List Byte), decodeEvent s.script = .ok (.host w, rest) →
      step s = execHostWrite w { s with script := rest }) ∧
    (∀ (r : HostRead) (rest : List Byte), decodeEvent s.script = .ok (.read r, rest) →
      step s = execHostRead r { s with script := rest }) ∧
    (∀ r, s.script ≠ [] → decodeEvent s.script = .error r → step s = .refused (.badFrame r)) ∧
    (s.script = [] → step s = .next s)

/-- In the state, the direction and with the toggle a control-word row of R103 names, and with the mode bits of
R101, the row writes the number R103 gives to control_word, sets waiting_for_status and clears timeout_ctr;
every other register, memory and output is unchanged. That a word row acts where the registers call for its word
is the model's reading (log 11). Rests on 30_encoding R101, 30_encoding R102, 30_encoding R103,
43_step_sequencer R205. -/
def Obligations.ControlWordRowsEmitTheirWord : Prop :=
    ∀ (s : State), s.params.wf = true →
    (s.state = stInit → exec (.cwInit s.params.initControlWord true) s = .next { s with
        log := s.log ++ [.write .controlWord s.params.initControlWord]
        waitingForStatus := true
        timeoutCtr := 0 }) ∧
    (∀ (m : BitVec 24), s.state = stSendCommand → s.dir = .write → s.toggle = true → m.toNat = s.params.baseModeWrite →
      exec (.cwSendcmdW m true) s = .next { s with
        log := s.log ++ [.write .controlWord (BitVec.ofNat 32 (m.toNat * 256 + 1))]
        waitingForStatus := true
        timeoutCtr := 0 }) ∧
    (∀ (m : BitVec 24), s.state = stSendCommand → s.dir = .read → s.toggle = true → m.toNat = s.params.baseModeRead →
      exec (.cwSendcmdR m true) s = .next { s with
        log := s.log ++ [.write .controlWord (BitVec.ofNat 32 (m.toNat * 256 + 1))]
        waitingForStatus := true
        timeoutCtr := 0 }) ∧
    (∀ (m : BitVec 24) (t : Bool), s.state = stCurveInfo → s.dir = .write → s.toggle = t → m.toNat = s.params.baseModeWrite + 1 →
      exec (.cwCurveinfoW m t true) s = .next { s with
        log := s.log ++ [.write .controlWord (BitVec.ofNat 32 (m.toNat * 256 + 2 + t.toNat))]
        waitingForStatus := true
        timeoutCtr := 0 }) ∧
    (∀ (m : BitVec 24) (t : Bool), s.state = stCurveInfo → s.dir = .read → s.toggle = t → m.toNat = s.params.baseModeRead + 1 →
      exec (.cwCurveinfoR m t true) s = .next { s with
        log := s.log ++ [.write .controlWord (BitVec.ofNat 32 (m.toNat * 256 + 2 + t.toNat))]
        waitingForStatus := true
        timeoutCtr := 0 }) ∧
    (∀ (m : BitVec 24) (t : Bool), s.state = stSetpoints → s.dir = .write → s.toggle = t → m.toNat = s.params.baseModeWrite + 2 →
      exec (.cwSetpointsW m t true) s = .next { s with
        log := s.log ++ [.write .controlWord (BitVec.ofNat 32 (m.toNat * 256 + 4 + t.toNat))]
        waitingForStatus := true
        timeoutCtr := 0 }) ∧
    (∀ (m : BitVec 24) (t : Bool), s.state = stSetpoints → s.dir = .read → s.toggle = t → m.toNat = s.params.baseModeRead + 2 →
      exec (.cwSetpointsR m t true) s = .next { s with
        log := s.log ++ [.write .controlWord (BitVec.ofNat 32 (m.toNat * 256 + 4 + t.toNat))]
        waitingForStatus := true
        timeoutCtr := 0 })

/-- In SendCommand the index row of the session's curve id writes the zero-extended id to index_out; in a write
session the block-size row whose count field is num_setpoints[13:0] of DESC writes (count << 18) + 70 to
value_out. In CurveInfo of a write session the row of the descriptor word under the cursor, in Setpoints that of
the setpoint word under it, writes the word to value_out and advances the cursor. Nothing else changes; a failed
write changes nothing. That a word row acts where the registers call for its word is the model's reading (log
11). Rests on 30_encoding R108, 30_encoding R109, 30_encoding R112, 43_step_sequencer R207, 43_step_sequencer
R198, 45_word_serializer R251. -/
def Obligations.OutgoingWordRowsEmit : Prop :=
    (∀ (s : State), s.state = stSendCommand →
    exec (.iw s.curveId true) s = .next { s with
      log := s.log ++ [.write .indexOut (BitVec.ofNat 32 s.curveId.toNat)] } ∧
    exec (.iw s.curveId false) s = .next s ∧
    (∀ (n : BitVec 14), s.dir = .write → n.toNat = (rd16 s.desc 4).toNat % 16384 →
      exec (.bw n true) s = .next { s with
        log := s.log ++ [.write .valueOut (BitVec.ofNat 32 (n.toNat * 262144 + 70))] } ∧
      exec (.bw n false) s = .next s)) ∧
    (∀ (s : State), s.dir = .write → s.txPos.toNat < s.txLen.toNat →
    (s.state = stCurveInfo → s.txSrc = .fromDesc → s.txPos.toNat < descWords →
      exec (.dw (wordAt s.desc s.txPos.toNat) true) s = .next { s with
        log := s.log ++ [.write .valueOut (wordAt s.desc s.txPos.toNat)]
        txPos := s.txPos + 1 } ∧
      exec (.dw (wordAt s.desc s.txPos.toNat) false) s = .next s) ∧
    (s.state = stSetpoints → s.txSrc = .fromSp → s.txPos.toNat < s.params.maxSetpoints →
      exec (.pw (wordAt s.sp s.txPos.toNat) true) s = .next { s with
        log := s.log ++ [.write .valueOut (wordAt s.sp s.txPos.toNat)]
        txPos := s.txPos + 1 } ∧
      exec (.pw (wordAt s.sp s.txPos.toNat) false) s = .next s))

/-- With reception armed in a read session, a descriptor word is stored as word rx_count of DESC while there is
room, byte by byte, and rx_count advances; a setpoint word is latched in rx_pending. Every byte of DESC outside
the four stored ones, and every other register, is unchanged. That a word row acts where the registers call for
its word is the model's reading (log 11). Rests on 30_encoding R112, 45_word_serializer R255, 45_word_serializer
R257. -/
def Obligations.DataWordsAreReceived : Prop :=
    ∀ (s : State) (v : Word) (ok : Bool), Memory.wf s.desc = true → s.dir = .read → s.bufferResponse = true →
    (s.rxTarget = .toDesc → s.rxCount.toNat < s.rxCap.toNat → s.rxCount.toNat < descWords →
      ∃ t, exec (.dw v ok) s = .next t ∧ t = { s with desc := t.desc, rxCount := s.rxCount + 1 } ∧
        wordAt t.desc s.rxCount.toNat = v ∧
        ∀ a, ¬ inBytes (4 * s.rxCount.toNat) 4 a → readByte t.desc a = readByte s.desc a) ∧
    (s.rxTarget = .toPending →
      exec (.pw v ok) s = .next { s with rxPending := v, rxPendingValid := true })

/-- Waiting in a phase with that phase's codes, the advance row of the phase sets state to the next phase and
changed_mode to 1; nothing else changes. That a word row acts where the registers call for its word is the
model's reading (log 11). Rests on 44_toggle_status_decode R237, 44_toggle_status_decode R241,
44_toggle_status_decode R242, 44_toggle_status_decode R243, 44_toggle_status_decode R244. -/
def Obligations.StatusAdvanceRowsAdvance : Prop :=
    ∀ (s : State), s.waitingForStatus = true →
    (s.state = stInit → s.nextModeStatus = 0x0F →
      exec .swInitAdv s = .next { s with state := stSendCommand, changedMode := true }) ∧
    (s.state = stSendCommand → s.nextModeStatus = 0x01 →
      exec .swSendcmdAdv s = .next { s with state := stCurveInfo, changedMode := true }) ∧
    (∀ t : Bool, s.state = stCurveInfo → s.nextModeStatus = 0x02 + bit 32 t →
      exec (.swCurveinfoAdv t) s = .next { s with state := stSetpoints, changedMode := true }) ∧
    (∀ t : Bool, s.state = stSetpoints → s.nextModeStatus = 0x04 + bit 32 t →
      exec (.swSetpointsAdv t) s = .next { s with state := stFinished, changedMode := true })

/-- The steady rows and the rows of words that match nothing leave every register, memory and output as it is, in
every state. That a word row acts where the registers call for its word is the model's reading (log 11). Rests
on 44_toggle_status_decode R238, 44_toggle_status_decode R239. -/
def Obligations.SteadyAndUnmatchedWordsWriteNothing : Prop :=
    ∀ (s : State) (t : Bool) (sw : Word),
    exec .swInitSteady s = .next s ∧ exec .swSendcmdSteady s = .next s ∧
    exec (.swCurveinfoSteady t) s = .next s ∧ exec (.swSetpointsSteady t) s = .next s ∧
    exec (.swInitNomatch sw) s = .next s ∧ exec (.swSendcmdNomatch sw) s = .next s ∧
    exec (.swCurveinfoNomatch sw) s = .next s ∧ exec (.swSetpointsNomatch sw) s = .next s

/-- Waiting in a phase with that phase's codes, the error row of the phase, for every upper half and every code byte
it admits, ends the session: state Failed, xfer_state Done, result Failure, fail_reason DeviceError, error_code
the code byte, message MSG_DEVICE_ERROR; nothing else changes. That a word row acts where the registers call for
its word is the model's reading (log 11). Rests on 44_toggle_status_decode R240, 44_toggle_status_decode R241,
44_toggle_status_decode R242, 44_toggle_status_decode R243, 44_toggle_status_decode R244, 46_timeout_error R275,
60_exceptions R310. -/
def Obligations.StatusErrorRowsFailWithTheCode : Prop :=
    ∀ (s : State) (u : Half) (c : Byte), s.waitingForStatus = true → c ≠ 0 →
    (s.state = stInit → s.nextModeStatus = 0x0F → s.expectedStatus = 0x0F →
      exec (.swInitErr u c) s = .next { s with
        state := stFailed
        xferState := .done
        result := .failure
        failReason := .cause .deviceError
        errorCode := c
        message := .deviceError }) ∧
    (s.state = stSendCommand → s.nextModeStatus = 0x01 → s.expectedStatus = 0x01 →
      exec (.swSendcmdErr u c) s = .next { s with
        state := stFailed
        xferState := .done
        result := .failure
        failReason := .cause .deviceError
        errorCode := c
        message := .deviceError }) ∧
    (∀ t : Bool, ¬ (u = 0 ∧ c = 4) → s.state = stCurveInfo → s.nextModeStatus = 0x02 + bit 32 t →
      s.expectedStatus = 0x402 + bit 32 t → exec (.swCurveinfoErr u c t) s = .next { s with
        state := stFailed
        xferState := .done
        result := .failure
        failReason := .cause .deviceError
        errorCode := c
        message := .deviceError }) ∧
    (∀ t : Bool, ¬ (u = 0 ∧ c = 4) → s.state = stSetpoints → s.nextModeStatus = 0x04 + bit 32 t →
      s.expectedStatus = 0x404 + bit 32 t → exec (.swSetpointsErr u c t) s = .next { s with
        state := stFailed
        xferState := .done
        result := .failure
        failReason := .cause .deviceError
        errorCode := c
        message := .deviceError })

/-- For every status word and state, CLASSIFY answers ADV if the word equals next_mode_status, else STEADY if it
equals expected_status, else ERR if its low byte is that of expected_status and its bits 15:8 are not 0, else
NOMATCH; it changes no register. Formalises R236. -/
def Obligations.ClassifyIsTheRule : Prop :=
    ∀ (s : State) (sw : Word), exec (.classify sw) s = .next { s with answer := .sw (
      if sw = s.nextModeStatus then .adv
      else if sw = s.expectedStatus then .steady
      else if sw.toNat % 256 = s.expectedStatus.toNat % 256 ∧ sw.toNat / 256 % 256 ≠ 0 then .err
      else .nomatch) }

/-- With both codes 0x0F, or 0x01: ADV exactly the code, never STEADY, ERR exactly a word with the code's low byte
and bits 15:8 not 0, else NOMATCH. Against the codes b + t and b + 0x400 + t of a data phase (b = 2 or 4, toggle
t): ADV exactly b + t; STEADY exactly b + 0x400 + t; ERR exactly a word with that low byte, bits 15:8 not 0,
that is not the steady code; NOMATCH every word of another low byte (the other toggle, the other phase, Init,
SendCommand) and, among those with that low byte, exactly the words whose bits 15:8 are 0 and whose upper half
is not. Rests on 44_toggle_status_decode R236, 44_toggle_status_decode R241, 44_toggle_status_decode R242,
44_toggle_status_decode R243, 44_toggle_status_decode R244. -/
def Obligations.ClassesOfEveryStatusWord : Prop :=
    ((∀ (sw e : Word), e = 0x0F ∨ e = 0x01 →
    (classOf e e sw = .adv ↔ sw = e) ∧ classOf e e sw ≠ .steady ∧
    (classOf e e sw = .err ↔ sw.toNat % 256 = e.toNat ∧ sw.toNat / 256 % 256 ≠ 0) ∧
    (classOf e e sw = .nomatch ↔ sw ≠ e ∧ (sw.toNat % 256 = e.toNat → sw.toNat / 256 % 256 = 0))) ∧
    (∀ (sw : Word) (t : Bool) (b : Word), b = 0x02 ∨ b = 0x04 →
    (classOf (b + bit 32 t) (b + 0x400 + bit 32 t) sw = .adv ↔ sw.toNat = b.toNat + t.toNat) ∧
    (classOf (b + bit 32 t) (b + 0x400 + bit 32 t) sw = .steady ↔ sw.toNat = b.toNat + 0x400 + t.toNat) ∧
    (classOf (b + bit 32 t) (b + 0x400 + bit 32 t) sw = .err ↔ sw.toNat % 256 = b.toNat + t.toNat ∧
      sw.toNat / 256 % 256 ≠ 0 ∧ sw.toNat ≠ b.toNat + 0x400 + t.toNat) ∧
    (sw.toNat % 256 ≠ b.toNat + t.toNat → classOf (b + bit 32 t) (b + 0x400 + bit 32 t) sw = .nomatch) ∧
    (sw.toNat % 256 = b.toNat + t.toNat →
      (classOf (b + bit 32 t) (b + 0x400 + bit 32 t) sw = .nomatch ↔
        sw.toNat / 256 % 256 = 0 ∧ sw.toNat / 65536 ≠ 0))))

/-- For every record of fields and every state whose DESC is in canonical form, PACK gives a next state in which
DESC holds every field little-endian at the offset of the rule and bytes 70 and 71 are 0; bytes from 72 on read
as before, and nothing but DESC changes. That PACK performed alone, outside an accepted write request and while
Busy too, does this is the model's choice (log 11). Rests on 40_descriptor_codec R141. -/
def Obligations.PackWritesTheRecord : Prop :=
    ∀ (s : State) (f : Fields), Memory.wf s.desc = true →
    ∃ t, exec (.pack f) s = .next t ∧ t = { s with desc := t.desc } ∧ HoldsRecord t.desc f ∧
      readByte t.desc 70 = 0 ∧ readByte t.desc 71 = 0 ∧
      ∀ a, 72 ≤ a → readByte t.desc a = readByte s.desc a

/-- While xfer_state is not Busy a record with its two padding bytes replaces the 72 bytes of DESC and nothing else;
while Busy it changes nothing. That the format REC enters DESC through the host's write port is the model's
choice (log 11). Rests on 30_encoding R110, 20_memory R90, 42_requests R188. -/
def Obligations.RecordReplacesDesc : Prop :=
    ∀ (s : State) (f : Fields) (p0 p1 : Byte), Memory.wf s.desc = true →
    (s.xferState ≠ .busy →
      ∃ t, exec (.record f p0 p1) s = .next t ∧ t = { s with desc := t.desc } ∧ HoldsRecord t.desc f ∧
        readByte t.desc 70 = p0 ∧ readByte t.desc 71 = p1 ∧
        ∀ a, 72 ≤ a → readByte t.desc a = readByte s.desc a) ∧
    (s.xferState = .busy → exec (.record f p0 p1) s = .next s)

/-- UNPACK answers the fields that DESC holds at the offsets of the rule, DUMP the same fields with the 72 raw
bytes, SINK.READ the six values of the sink; a host read answers a word of DESC, a word of SP inside it, or the
registers of 10_state section 3 beside the memories; a word outside SP does not exist. None changes a register
or a memory, in particular Done does not become Idle. That UNPACK and DUMP answer while xfer_state is Busy,
where R142 offers no view, and that a host read does in every transfer state, is the model's choice (log 13).
Rests on 40_descriptor_codec R142, 40_descriptor_codec R146, 42_requests R186, 60_exceptions R325, 20_memory
R70. -/
def Obligations.HostViewsAnswerWithoutEffect : Prop :=
    (∀ (s : State), ∃ f, HoldsRecord s.desc f ∧ exec .unpack s = .next { s with answer := .fields f } ∧
    ∃ bs, bs.length = 72 ∧ (∀ k, k < 72 → bs[k]? = some (readByte s.desc k)) ∧
      exec .dump s = .next { s with answer := .dump f bs }) ∧
    (∀ (s : State), exec .sinkRead s = .next { s with answer := .sink {
      xferState := s.xferState
      result := s.result
      message := s.message
      failReason := s.failReason
      errorCode := s.errorCode
      underflowFlag := s.underflowFlag } }) ∧
    (∀ (s : State) (k : Fin 18) (i : Half),
    execHostRead (.descWord k) s = .next { s with answer := .word (wordAt s.desc k.val) } ∧
    (i.toNat < s.params.maxSetpoints →
      execHostRead (.setpoint i) s = .next { s with answer := .word (wordAt s.sp i.toNat) }) ∧
    (s.params.maxSetpoints ≤ i.toNat → execHostRead (.setpoint i) s = .fault .spAddress) ∧
    execHostRead .dataRegs s = .next { s with answer := .data {
      spCount := s.spCount
      txSrc := s.txSrc
      txPos := s.txPos
      txLen := s.txLen
      rxTarget := s.rxTarget
      rxCount := s.rxCount
      rxCap := s.rxCap
      rxPending := s.rxPending
      rxPendingValid := s.rxPendingValid } })

/-- UNPACK after PACK(f) gives f, for every f and every earlier content; PACK of what UNPACK gives leaves bytes 0 to
69 unchanged and sets 70 and 71 to 0; two memories from which UNPACK gives the same fields agree on bytes 0 to
69. Rests on 40_descriptor_codec R147. -/
def Obligations.CodecLaws : Prop :=
    ∀ (m n : Memory) (f : Fields), Memory.wf m = true →
    unpacked (writeBytes m 0 (packed f)) = f ∧
    (∀ a, a < 70 → readByte (writeBytes m 0 (packed (unpacked m))) a = readByte m a) ∧
    readByte (writeBytes m 0 (packed (unpacked m))) 70 = 0 ∧
    readByte (writeBytes m 0 (packed (unpacked m))) 71 = 0 ∧
    (unpacked n = unpacked m → ∀ a, a < 70 → readByte n a = readByte m a)

/-- While xfer_state is not Busy a present string of length below 22 becomes the host's name value, its tail zero,
and the answer is Ok; an absent string or one of length 22 or more is answered NameTooLong and changes nothing
else; while Busy no host value changes (what is answered then is the model's choice, log 11). Rests on
40_descriptor_codec R144, 42_requests R188. -/
def Obligations.SetNameIsTheRule : Prop :=
    ∀ (s : State) (b : List Byte),
    exec (.setName none) s = .next { s with answer := .name false } ∧
    (22 ≤ b.length → exec (.setName (some b)) s = .next { s with answer := .name false }) ∧
    (b.length < 22 → s.xferState ≠ .busy →
      ∃ v : Vector Byte 22, (∀ k : Fin 22, v[k.val] = if h : k.val < b.length then b[k.val] else 0) ∧
        exec (.setName (some b)) s = .next { s with answer := .name true, host := { s.host with name := v } }) ∧
    (s.xferState = .busy → ∃ a, exec (.setName (some b)) s = .next { s with answer := .name a })

/-- For every count N, BLOCKSIZE answers the word whose value is ((N << 18) | 70) modulo 2^32, that is (N mod 16384)
* 2^18 + 70, and changes no register. Formalises R145. -/
def Obligations.BlockSizeIsTheRule : Prop :=
    ∀ (s : State) (n : Half), ∃ w : Word, exec (.blocksize n) s = .next { s with answer := .word w } ∧
    w.toNat = (n.toNat * 2 ^ 18 ||| 70) % 2 ^ 32 ∧ w.toNat = n.toNat % 16384 * 2 ^ 18 + 70

/-- XLEN.DECODE answers 0.0 if x_length or num_setpoints is 0, else f64(x_length) / (f64(num_setpoints) * 1e5);
POS.DECODE answers f64(s32(w)) / 1e4; both leave every register unchanged. The arithmetic is binary64, rounded
to nearest even (log 7). For a finite dt, with total = f64(n) * dt: if total <= 0 or total >= LM_MAX_CURVE_TIME
the answer is InvalidDuration; else, if floor(total * 1e5) is below 2^32, the answer is that number; no register
changes. For a dt that is not finite, or a valid duration whose product with 1e5 has a floor not below 2^32,
XLEN.ENCODE is refused, as U9 asks. Rests on 41_unit_conversions R163, 41_unit_conversions R167,
41_unit_conversions R161, 41_unit_conversions R162, 93_implementation_defined U9. -/
def Obligations.DurationConversionsAsTheRules : Prop :=
    (∀ (s : State) (x w : Word) (n : Half),
    (x = 0 ∨ n = 0 → exec (.xlenDecode x n) s = .next { s with answer := .real (fOfNat 0) }) ∧
    (x ≠ 0 → n ≠ 0 → exec (.xlenDecode x n) s = .next { s with
      answer := .real (fDiv (fOfNat x.toNat) (fMul (fOfNat n.toNat) (fOfNat 100000))) }) ∧
    exec (.posDecode w) s = .next { s with answer := .real (fDiv (fOfInt w.toInt) (fOfNat 10000)) }) ∧
    (∀ (s : State) (n : BitVec 64) (dt : Real64), fFinite dt = true →
    (fLe (fMul (fOfNat n.toNat) dt) (fOfNat 0) = true ∨ fLe lmMaxCurveTime (fMul (fOfNat n.toNat) dt) = true →
      exec (.xlenEncode n dt) s = .next { s with answer := .xlen none }) ∧
    (fLe (fMul (fOfNat n.toNat) dt) (fOfNat 0) = false → fLe lmMaxCurveTime (fMul (fOfNat n.toNat) dt) = false →
      fFloor (fMul (fMul (fOfNat n.toNat) dt) (fOfNat 100000)) < 2 ^ 32 →
      exec (.xlenEncode n dt) s = .next { s with
        answer := .xlen (some (BitVec.ofInt 32 (fFloor (fMul (fMul (fOfNat n.toNat) dt) (fOfNat 100000))))) })) ∧
    (∀ (s : State) (n : BitVec 64) (dt : Real64), fFinite dt = false ∨
      (fLe (fMul (fOfNat n.toNat) dt) (fOfNat 0) = false ∧ fLe lmMaxCurveTime (fMul (fOfNat n.toNat) dt) = false ∧
        2 ^ 32 ≤ fFloor (fMul (fMul (fOfNat n.toNat) dt) (fOfNat 100000))) →
      exec (.xlenEncode n dt) s = .refused .xlenDomain)

/-- While xfer_state is not Busy, for an index inside SP and a position whose product with 1e4 is finite and whose
rounded tick is a signed 32-bit number, word i of SP becomes that tick, every byte outside the word is
unchanged, and nothing else changes. While Busy nothing changes. A position that is not finite, or whose product
is not, or whose tick is no signed 32-bit number, is refused, as U10 asks. Rests on 41_unit_conversions R165,
42_requests R188, 93_implementation_defined U10. -/
def Obligations.PositionEncodesAsTheRule : Prop :=
    (∀ (s : State) (i : Half) (p : Real64), Memory.wf s.sp = true → fFinite p = true →
    fFinite (fMul p positionScale) = true →
    -(2 ^ 31) ≤ posRound s.params (fMul p positionScale) → posRound s.params (fMul p positionScale) < 2 ^ 31 →
    (s.xferState ≠ .busy → i.toNat < s.params.maxSetpoints →
      ∃ t, exec (.posEncode i p) s = .next t ∧ t = { s with sp := t.sp } ∧
        (wordAt t.sp i.toNat).toInt = posRound s.params (fMul p positionScale) ∧
        ∀ a, ¬ inBytes (4 * i.toNat) 4 a → readByte t.sp a = readByte s.sp a) ∧
    (s.xferState = .busy → exec (.posEncode i p) s = .next s)) ∧
    (∀ (s : State) (i : Half) (p : Real64), (fFinite p = false ∨ fFinite (fMul p positionScale) = false ∨
      posRound s.params (fMul p positionScale) < -(2 ^ 31) ∨ 2 ^ 31 ≤ posRound s.params (fMul p positionScale)) →
      exec (.posEncode i p) s = .refused .posDomain)

/-- After a successful read session PROJECT publishes min(sp_count, maximum) points and that count; point k is the
free projection formula of the resolution (the caller's, 1.0 by default and when the lookup fails), the offset
(0.0 by default, 0.5 when the lookup fails), whether the direction is not 0, and the decoded position SP[k];
nothing else changes. The formula is a free value (log 8): the statement holds whatever it is. Rests on
41_unit_conversions R168. -/
def Obligations.ProjectPublishesTruncatedPoints : Prop :=
    ∀ (s : State) (a : ProjectArgs), s.xferState = .done → s.result = .success → s.dir = .read →
    s.spCount.toNat ≤ s.params.maxSetpoints →
    ∃ t, exec (.project a) s = .next t ∧ t = { s with profile := t.profile, profileCount := t.profileCount } ∧
      t.profileCount = min s.params.maxPoints s.spCount.toNat ∧ t.profile.length = t.profileCount ∧
      ∀ k, k < t.profileCount → t.profile[k]? = some (Config.projectPoint
        (if a.lookupOk = true then a.resolution.getD (fOfNat 1) else fOfNat 1)
        (if a.lookupOk = true then a.offset.getD (fOfNat 0) else 0x3FE0000000000000)
        (decide (a.direction ≠ 0))
        (fDiv (fOfInt (wordAt s.sp k).toInt) (fOfNat 10000)))

/-- From every state SessionInit sets state Init, xfer_state Busy, result Success, message MSG_BUSY, clears the
toggle, the flags, the codes, the counter, the cursors and the failure registers, and leaves everything else
unchanged; no endpoint is accessed. That SessionInit performed alone, outside an accepted request and while Busy
too, does this is the model's choice (log 11). Rests on 42_requests R178. -/
def Obligations.SessionInitIsTheRule : Prop :=
    ∀ (s : State), exec .sessionInit s = .next { s with
        state := stInit
        toggle := false
        waitingForStatus := false
        changedMode := false
        bufferResponse := false
        expectedStatus := 0
        nextModeStatus := 0
        timeoutCtr := 0
        txSrc := .fromDesc
        txPos := 0
        txLen := 0
        rxTarget := .toDesc
        rxCount := 0
        rxCap := 0
        rxPendingValid := false
        underflowFlag := false
        failReason := .none
        errorCode := 0
        xferState := .busy
        result := .success
        message := .busy }

/-- If the engine is not busy, the id is in 1 .. MAX_CURVE_ID, the count is not 0, the duration is valid and the
count is at most MAX_SETPOINTS, REQ.WRITE gives a next state with the registers of SessionInit, dir Write, the
id and the count, req_status Accepted, and a DESC that holds DATA_OFFSET, the count, 4, the id and the host's
values, the padding 0; everything else is unchanged. Rests on 42_requests R176, 42_requests R178,
40_descriptor_codec R143. -/
def Obligations.WriteRequestAcceptedStartsASession : Prop :=
    ∀ (s : State) (id count : Half), Memory.wf s.desc = true → s.xferState ≠ .busy →
    1 ≤ id.toNat → id.toNat ≤ s.params.maxCurveId → count ≠ 0 → count.toNat ≤ s.params.maxSetpoints →
    ∃ t, exec (.reqWrite id count true) s = .next t ∧
      t = { s with
        desc := t.desc
        dir := .write
        curveId := id
        spCount := count
        answer := .req .accepted
        state := stInit
        toggle := false
        waitingForStatus := false
        changedMode := false
        bufferResponse := false
        expectedStatus := 0
        nextModeStatus := 0
        timeoutCtr := 0
        txSrc := .fromDesc
        txPos := 0
        txLen := 0
        rxTarget := .toDesc
        rxCount := 0
        rxCap := 0
        rxPendingValid := false
        underflowFlag := false
        failReason := .none
        errorCode := 0
        xferState := .busy
        result := .success
        message := .busy } ∧
      HoldsRecord t.desc {
        dataOffset := s.params.dataOffset
        objectType := s.host.objectType
        numSetpoints := count
        dataTypeSize := 4
        name := s.host.name
        curveId := id
        xLength := s.host.xLength
        xDimUuid := s.host.xDimUuid
        yDimUuid := s.host.yDimUuid
        wizardType := s.host.wizardType
        wizardParams := s.host.wizardParams } ∧
      readByte t.desc 70 = 0 ∧ readByte t.desc 71 = 0 ∧
      ∀ a, 72 ≤ a → readByte t.desc a = readByte s.desc a

/-- If the engine is not busy and the id is in 1 .. MAX_CURVE_ID, REQ.READ gives a next state with the registers of
SessionInit, dir Read, the id, sp_count 0, req_status Accepted and a DESC whose 72 bytes are 0; everything else,
SP included, is unchanged. Rests on 42_requests R177, 42_requests R178. -/
def Obligations.ReadRequestAcceptedStartsASession : Prop :=
    ∀ (s : State) (id : Half), Memory.wf s.desc = true → s.xferState ≠ .busy →
    1 ≤ id.toNat → id.toNat ≤ s.params.maxCurveId →
    ∃ t, exec (.reqRead id) s = .next t ∧
      t = { s with
        desc := t.desc
        dir := .read
        curveId := id
        spCount := 0
        answer := .req .accepted
        state := stInit
        toggle := false
        waitingForStatus := false
        changedMode := false
        bufferResponse := false
        expectedStatus := 0
        nextModeStatus := 0
        timeoutCtr := 0
        txSrc := .fromDesc
        txPos := 0
        txLen := 0
        rxTarget := .toDesc
        rxCount := 0
        rxCap := 0
        rxPendingValid := false
        underflowFlag := false
        failReason := .none
        errorCode := 0
        xferState := .busy
        result := .success
        message := .busy } ∧
      (∀ a, a < 72 → readByte t.desc a = 0) ∧
      ∀ a, 72 ≤ a → readByte t.desc a = readByte s.desc a

/-- In the order busy, id, duration, count, the first check that fails gives req_status (a read request has no
duration and no count check); nothing but the answer changes: no register, no memory, no endpoint. The four
rejection rows answer the same where the request, write or read, fails by their reason; that each changes
nothing where the request does not fail by that reason is the model's choice for a row performed alone (log 11).
Rests on 42_requests R179, 42_requests R180, 42_requests R181, 42_requests R182, 42_requests R183. -/
def Obligations.RejectedRequestsChangeNoRegister : Prop :=
    ∀ (s : State) (id count : Half) (ok : Bool),
    (s.xferState = .busy →
      exec (.reqWrite id count ok) s = .next { s with answer := .req .busy } ∧
      exec (.reqRead id) s = .next { s with answer := .req .busy } ∧
      exec (.rejBusy (.write id count ok)) s = .next { s with answer := .req .busy } ∧
      exec (.rejBusy (.read id)) s = .next { s with answer := .req .busy }) ∧
    (s.xferState ≠ .busy → (id = 0 ∨ s.params.maxCurveId < id.toNat) →
      exec (.reqWrite id count ok) s = .next { s with answer := .req .invalidId } ∧
      exec (.reqRead id) s = .next { s with answer := .req .invalidId } ∧
      exec (.rejInvalidId (.write id count ok)) s = .next { s with answer := .req .invalidId } ∧
      exec (.rejInvalidId (.read id)) s = .next { s with answer := .req .invalidId }) ∧
    (s.xferState ≠ .busy → id ≠ 0 → id.toNat ≤ s.params.maxCurveId → (count = 0 ∨ ok = false) →
      exec (.reqWrite id count ok) s = .next { s with answer := .req .invalidDuration } ∧
      exec (.rejInvalidDuration (.write id count ok)) s = .next { s with answer := .req .invalidDuration }) ∧
    (s.xferState ≠ .busy → id ≠ 0 → id.toNat ≤ s.params.maxCurveId → count ≠ 0 → ok = true →
      s.params.maxSetpoints < count.toNat →
      exec (.reqWrite id count ok) s = .next { s with answer := .req .invalidCount } ∧
      exec (.rejInvalidCount (.write id count ok)) s = .next { s with answer := .req .invalidCount }) ∧
    (s.xferState ≠ .busy →
      exec (.rejBusy (.write id count ok)) s = .next s ∧ exec (.rejBusy (.read id)) s = .next s) ∧
    (s.xferState = .busy ∨ (id ≠ 0 ∧ id.toNat ≤ s.params.maxCurveId) →
      exec (.rejInvalidId (.write id count ok)) s = .next s ∧ exec (.rejInvalidId (.read id)) s = .next s) ∧
    (s.xferState = .busy ∨ id = 0 ∨ s.params.maxCurveId < id.toNat ∨ (count ≠ 0 ∧ ok = true) →
      exec (.rejInvalidDuration (.write id count ok)) s = .next s) ∧
    exec (.rejInvalidDuration (.read id)) s = .next s ∧
    (s.xferState = .busy ∨ id = 0 ∨ s.params.maxCurveId < id.toNat ∨ count = 0 ∨ ok = false ∨
      count.toNat ≤ s.params.maxSetpoints → exec (.rejInvalidCount (.write id count ok)) s = .next s) ∧
    exec (.rejInvalidCount (.read id)) s = .next s

/-- While xfer_state is not Busy a host write of a setpoint inside SP stores that word and leaves every other byte
of SP; a count of at most MAX_SETPOINTS becomes sp_count; a field value becomes the host's value; nothing else
changes. While Busy every host write changes nothing at all. Rests on 42_requests R188, 20_memory R90,
30_encoding R117, 10_state R35, 93_implementation_defined U15. -/
def Obligations.HostWritesStoreOnlyWhileNotBusy : Prop :=
    (∀ (s : State), s.xferState = .busy →
    (∀ w, execHostWrite w s = .next s) ∧
    (∀ i p t, exec (.posEncode i p) s = .next t → t = s)) ∧
    (∀ (s : State) (i : Half) (v : Word) (n : Half) (j : Fin 7), Memory.wf s.sp = true → s.xferState ≠ .busy →
    (i.toNat < s.params.maxSetpoints →
      ∃ t, execHostWrite (.setpoint i v) s = .next t ∧ t = { s with sp := t.sp } ∧ wordAt t.sp i.toNat = v ∧
        ∀ a, ¬ inBytes (4 * i.toNat) 4 a → readByte t.sp a = readByte s.sp a) ∧
    (n.toNat ≤ s.params.maxSetpoints → execHostWrite (.setpointCount n) s = .next { s with spCount := n }) ∧
    execHostWrite (.objectType n) s = .next { s with host := { s.host with objectType := n } } ∧
    execHostWrite (.xLength v) s = .next { s with host := { s.host with xLength := v } } ∧
    execHostWrite (.xDimUuid n) s = .next { s with host := { s.host with xDimUuid := n } } ∧
    execHostWrite (.yDimUuid n) s = .next { s with host := { s.host with yDimUuid := n } } ∧
    execHostWrite (.wizardType n) s = .next { s with host := { s.host with wizardType := n } } ∧
    (∀ nm, execHostWrite (.nameRaw nm) s = .next { s with host := { s.host with name := nm } }) ∧
    (∃ t, execHostWrite (.wizardParam j v) s = .next t ∧
      t = { s with host := { s.host with wizardParams := t.host.wizardParams } } ∧
      ∀ k : Fin 7, t.host.wizardParams[k.val] = if k = j then v else s.host.wizardParams[k.val]))

/-- TOGGLE.SET1 sets the toggle, both TOGGLE.FLIP rows invert it, TOGGLE.RESET0 clears it, each changing nothing
else; STEP.SENDCMD leaves it 1, every run of STEP.CURVEINFO inverts it, its entry included (decision D12 of the
spec, DEDUCED in log 10), STEP.SETPOINTS clears it on entry and inverts it on re-entry, also where the arm then
fails the session. Rests on 44_toggle_status_decode R230, 44_toggle_status_decode R231, 44_toggle_status_decode
R232, 44_toggle_status_decode R233, 43_step_sequencer R208. -/
def Obligations.ToggleRowsAndTheirArms : Prop :=
    ∀ (s : State),
    exec .toggleSet1 s = .next { s with toggle := true } ∧
    exec .toggleFlipCurveinfo s = .next { s with toggle := !s.toggle } ∧
    exec .toggleReset0 s = .next { s with toggle := false } ∧
    exec .toggleFlipSetpoints s = .next { s with toggle := !s.toggle } ∧
    (s.state = stSendCommand → ∃ t, exec (.stepSendcmd true true) s = .next t ∧ t.toggle = true) ∧
    (s.state = stCurveInfo → ∃ t, exec .stepCurveinfo s = .next t ∧ t.toggle = !s.toggle) ∧
    (s.state = stSetpoints → ∃ t, exec .stepSetpoints s = .next t ∧
      t.toggle = if s.changedMode = true then false else !s.toggle)

/-- TX.LOAD.DESC points the cursor at 18 words of DESC, TX.LOAD.SP at sp_count words of SP; RX.ARM.DESC selects DESC
with room for 18 words, RX.ARM.SP selects the pending register and empties it; nothing else changes, no word is
copied. Rests on 45_word_serializer R250, 45_word_serializer R254. -/
def Obligations.CursorRowsLoadAndArm : Prop :=
    ∀ (s : State),
    exec .txLoadDesc s = .next { s with txSrc := .fromDesc, txPos := 0, txLen := 18 } ∧
    exec .txLoadSp s = .next { s with txSrc := .fromSp, txPos := 0, txLen := s.spCount } ∧
    exec .rxArmDesc s = .next { s with rxTarget := .toDesc, rxCount := 0, rxCap := 18 } ∧
    exec .rxArmSp s = .next { s with rxTarget := .toPending, rxPendingValid := false }

/-- Where tx_pos < tx_len and the cursor lies in its memory, TX.NEXT writes DESCW(tx_pos) or SP[tx_pos] to value_out
and advances tx_pos; if that write fails nothing changes; where the cursor is exhausted only underflow_flag is
set, and no word is written. Rests on 45_word_serializer R251, 45_word_serializer R252, 43_step_sequencer R198. -/
def Obligations.NextWordIsSentOrUnderflows : Prop :=
    ∀ (s : State) (ok : Bool),
    (s.txPos.toNat < s.txLen.toNat → s.txSrc = .fromDesc → s.txPos.toNat < descWords →
      exec (.txNext true) s = .next { s with
        log := s.log ++ [.write .valueOut (rd32 s.desc (4 * s.txPos.toNat))]
        txPos := s.txPos + 1 } ∧
      exec (.txNext false) s = .next s) ∧
    (s.txPos.toNat < s.txLen.toNat → s.txSrc = .fromSp → s.txPos.toNat < s.params.maxSetpoints →
      exec (.txNext true) s = .next { s with
        log := s.log ++ [.write .valueOut (rd32 s.sp (4 * s.txPos.toNat))]
        txPos := s.txPos + 1 } ∧
      exec (.txNext false) s = .next s) ∧
    (s.txLen.toNat ≤ s.txPos.toNat → exec (.txNext ok) s = .next { s with underflowFlag := true })

/-- With a response requested: into DESC, with room, the four bytes of the word go to 4*rx_count .. 4*rx_count+3,
low byte first, rx_count advances, every other byte reads as before; without room the session fails with
Overflow and DESC is unchanged; into the pending register, the word is latched and marked valid. With no
response requested the word is dropped. Nothing else changes. Formalises R255, R256. -/
def Obligations.ReceivedWordIsStoredOrOverflows : Prop :=
    ∀ (s : State) (v : Word), Memory.wf s.desc = true →
    (s.bufferResponse = true → s.rxTarget = .toDesc → s.rxCount.toNat < s.rxCap.toNat →
      s.rxCount.toNat < descWords →
      ∃ t, exec (.rxPush v) s = .next t ∧ t = { s with desc := t.desc, rxCount := s.rxCount + 1 } ∧
        (∀ k : Fin 4, (readByte t.desc (4 * s.rxCount.toNat + k.val)).toNat = v.toNat / 256 ^ k.val % 256) ∧
        ∀ a, ¬ inBytes (4 * s.rxCount.toNat) 4 a → readByte t.desc a = readByte s.desc a) ∧
    (s.bufferResponse = true → s.rxTarget = .toDesc → s.rxCap.toNat ≤ s.rxCount.toNat →
      exec (.rxPush v) s = .next { s with
        state := stFailed
        xferState := .done
        result := .failure
        failReason := .cause .overflow
        errorCode := 0
        message := .overflow }) ∧
    (s.bufferResponse = true → s.rxTarget = .toPending →
      exec (.rxPush v) s = .next { s with rxPending := v, rxPendingValid := true }) ∧
    (s.bufferResponse = false → exec (.rxPush v) s = .next s)

/-- With a valid pending setpoint and room in SP, word sp_count of SP becomes it, sp_count advances, the valid bit
clears, every other byte of SP reads as before; with SP full the session fails with Overflow; with none pending
nothing changes. Nothing else changes. Formalises R258. -/
def Obligations.PendingSetpointIsAppended : Prop :=
    ∀ (s : State), Memory.wf s.sp = true →
    (s.rxPendingValid = true → s.spCount.toNat < s.params.maxSetpoints →
      ∃ t, exec .spAppend s = .next t ∧
        t = { s with sp := t.sp, spCount := s.spCount + 1, rxPendingValid := false } ∧
        wordAt t.sp s.spCount.toNat = s.rxPending ∧
        ∀ a, ¬ inBytes (4 * s.spCount.toNat) 4 a → readByte t.sp a = readByte s.sp a) ∧
    (s.rxPendingValid = true → s.params.maxSetpoints ≤ s.spCount.toNat → exec .spAppend s = .next { s with
        state := stFailed
        xferState := .done
        result := .failure
        failReason := .cause .overflow
        errorCode := 0
        message := .overflow }) ∧
    (s.rxPendingValid = false → exec .spAppend s = .next s)

/-- TMO.TICK adds 1 to timeout_ctr while waiting and does nothing else; TMO.EXPIRE fails the session with Timeout
exactly if timeout_ctr > TIMEOUT_CYCLES; TMO.ARM sets waiting_for_status and clears timeout_ctr; nothing else
changes. Formalises R270, R271. -/
def Obligations.TimerCountsArmsAndExpires : Prop :=
    ∀ (s : State),
    (s.waitingForStatus = true → exec .tmoTick s = .next { s with timeoutCtr := s.timeoutCtr + 1 }) ∧
    (s.waitingForStatus = false → exec .tmoTick s = .next s) ∧
    (s.params.timeoutCycles < s.timeoutCtr.toNat → exec .tmoExpire s = .next { s with
        state := stFailed
        xferState := .done
        result := .failure
        failReason := .cause .timeout
        errorCode := 0
        message := .timeout }) ∧
    (s.timeoutCtr.toNat ≤ s.params.timeoutCycles → exec .tmoExpire s = .next s) ∧
    exec .tmoArm s = .next { s with waitingForStatus := true, timeoutCtr := 0 }

/-- A status word equal to neither code, whose low byte is that of expected_status and whose bits 15:8 are not 0,
fails the session with DeviceError and those bits; every other word changes nothing. Formalises R275. -/
def Obligations.DeviceErrorFailsWithTheCode : Prop :=
    ∀ (s : State) (sw : Word),
    (sw ≠ s.nextModeStatus → sw ≠ s.expectedStatus → sw.toNat % 256 = s.expectedStatus.toNat % 256 →
      sw.toNat / 256 % 256 ≠ 0 →
      exec (.errDevice sw) s = .next { s with
        state := stFailed
        xferState := .done
        result := .failure
        failReason := .cause .deviceError
        errorCode := BitVec.ofNat 8 (sw.toNat / 256)
        message := .deviceError }) ∧
    (sw = s.nextModeStatus ∨ sw = s.expectedStatus ∨ sw.toNat % 256 ≠ s.expectedStatus.toNat % 256 ∨
      sw.toNat / 256 % 256 = 0 → exec (.errDevice sw) s = .next s)

/-- For every reason and code, FAIL sets state Failed, xfer_state Done, result Failure, fail_reason the reason,
error_code the code for DeviceError and 0 otherwise, message the code of the reason; every other register, both
memories and every output are unchanged. Formalises R310, R302. -/
def Obligations.FailureEntryIsTheRule : Prop :=
    ∀ (s : State) (k : Cause) (c : Byte), exec (.fail k c) s = .next { s with
        state := stFailed
        xferState := .done
        result := .failure
        failReason := .cause k
        errorCode := if k = .deviceError then c else 0
        message := match k with
          | .timeout => .timeout
          | .deviceError => .deviceError
          | .overflow => .overflow
          | .responseSize => .responseSize
          | .unknownState => .unknownState }

/-- In state Init, STEP.INIT sets both status codes to 0x0F, and in a write session first pulses delete_curve_req
with the curve id; nothing else changes. Formalises R206. -/
def Obligations.InitArmIsTheRule : Prop :=
    ∀ (s : State), s.state = stInit →
    (s.dir = .write → exec .stepInit s = .next { s with
      log := s.log ++ [.deleteCurveReq s.curveId]
      nextModeStatus := 0x0F
      expectedStatus := 0x0F }) ∧
    (s.dir = .read → exec .stepInit s = .next { s with nextModeStatus := 0x0F, expectedStatus := 0x0F })

/-- In state SendCommand with both writes ok, STEP.SENDCMD writes the curve id to index_out and then, to value_out,
(num_setpoints mod 16384) * 2^18 + 70 in a write session and 0 in a read session; sets the toggle, both codes to
1, the send cursor to 18 words of DESC and the receive side to DESC with room for 18; nothing else changes. A
failed write changes no register. Rests on 43_step_sequencer R207, 43_step_sequencer R198. -/
def Obligations.SendCommandArmIsTheRule : Prop :=
    ∀ (s : State), s.state = stSendCommand →
    exec (.stepSendcmd true true) s = .next { s with
      log := s.log ++ [.write .indexOut (BitVec.ofNat 32 s.curveId.toNat), .write .valueOut (match s.dir with
        | .write => BitVec.ofNat 32 ((rd16 s.desc 4).toNat % 16384 * 262144 + 70)
        | .read => 0)]
      toggle := true
      txSrc := .fromDesc
      txPos := 0
      txLen := 18
      rxTarget := .toDesc
      rxCount := 0
      rxCap := 18
      nextModeStatus := 0x01
      expectedStatus := 0x01 } ∧
    (∀ ok, exec (.stepSendcmd false ok) s = .next s) ∧
    exec (.stepSendcmd true false) s = .next { s with
      log := s.log ++ [.write .indexOut (BitVec.ofNat 32 s.curveId.toNat)] }

/-- In state CurveInfo the arm inverts the toggle, sets expected_status to 0x402 and next_mode_status to 0x002 plus
the new toggle, buffer_response to (dir == Read); on entry it first loads the cursor with 18 words of DESC
(write) or arms reception into DESC (read); nothing else changes. Formalises R208. -/
def Obligations.CurveInfoArmIsTheRule : Prop :=
    ∀ (s : State), s.state = stCurveInfo →
    (s.changedMode = true → s.dir = .write → exec .stepCurveinfo s = .next { s with
      txSrc := .fromDesc
      txPos := 0
      txLen := 18
      toggle := !s.toggle
      expectedStatus := BitVec.ofNat 32 (0x402 + (!s.toggle).toNat)
      nextModeStatus := BitVec.ofNat 32 (0x002 + (!s.toggle).toNat)
      bufferResponse := false }) ∧
    (s.changedMode = true → s.dir = .read → exec .stepCurveinfo s = .next { s with
      rxTarget := .toDesc
      rxCount := 0
      rxCap := 18
      toggle := !s.toggle
      expectedStatus := BitVec.ofNat 32 (0x402 + (!s.toggle).toNat)
      nextModeStatus := BitVec.ofNat 32 (0x002 + (!s.toggle).toNat)
      bufferResponse := true }) ∧
    (s.changedMode = false → exec .stepCurveinfo s = .next { s with
      toggle := !s.toggle
      expectedStatus := BitVec.ofNat 32 (0x402 + (!s.toggle).toNat)
      nextModeStatus := BitVec.ofNat 32 (0x002 + (!s.toggle).toNat)
      bufferResponse := decide (s.dir = .read) })

/-- In state Setpoints. Entry, writing: toggle 0, codes 0x404 and 0x004, the cursor at sp_count words of SP. Entry,
reading, with 18 words received: toggle 0, the same codes, sp_count 0, reception into the pending register.
Entry, reading, with another number: the session fails with ResponseSize, the toggle already 0. Re-entry,
writing: the toggle flips and the codes follow. Re-entry, reading, with a pending setpoint and room: also
appended, other bytes of SP unchanged; with SP full the session fails with Overflow, the toggle already flipped,
no code written; with none pending nothing is appended. Nothing else changes. Rests on 43_step_sequencer R210,
45_word_serializer R258, 60_exceptions R306. -/
def Obligations.SetpointsArmIsTheRule : Prop :=
    ∀ (s : State), s.state = stSetpoints → Memory.wf s.sp = true →
    (s.changedMode = true → s.dir = .write → exec .stepSetpoints s = .next { s with
      toggle := false
      txSrc := .fromSp
      txPos := 0
      txLen := s.spCount
      expectedStatus := 0x404
      nextModeStatus := 0x004
      bufferResponse := false }) ∧
    (s.changedMode = true → s.dir = .read → s.rxCount = 18 → exec .stepSetpoints s = .next { s with
      toggle := false
      spCount := 0
      rxTarget := .toPending
      rxPendingValid := false
      expectedStatus := 0x404
      nextModeStatus := 0x004
      bufferResponse := true }) ∧
    (s.changedMode = true → s.dir = .read → s.rxCount ≠ 18 → exec .stepSetpoints s = .next { s with
      toggle := false
      state := stFailed
      xferState := .done
      result := .failure
      failReason := .cause .responseSize
      errorCode := 0
      message := .responseSize }) ∧
    (s.changedMode = false → s.dir = .write → exec .stepSetpoints s = .next { s with
      toggle := !s.toggle
      expectedStatus := BitVec.ofNat 32 (0x404 + (!s.toggle).toNat)
      nextModeStatus := BitVec.ofNat 32 (0x004 + (!s.toggle).toNat)
      bufferResponse := false }) ∧
    (s.changedMode = false → s.dir = .read → s.rxPendingValid = true →
      s.spCount.toNat < s.params.maxSetpoints →
      ∃ t, exec .stepSetpoints s = .next t ∧ t = { s with
          sp := t.sp
          spCount := s.spCount + 1
          rxPendingValid := false
          toggle := !s.toggle
          expectedStatus := BitVec.ofNat 32 (0x404 + (!s.toggle).toNat)
          nextModeStatus := BitVec.ofNat 32 (0x004 + (!s.toggle).toNat)
          bufferResponse := true } ∧
        wordAt t.sp s.spCount.toNat = s.rxPending ∧
        ∀ a, ¬ inBytes (4 * s.spCount.toNat) 4 a → readByte t.sp a = readByte s.sp a) ∧
    (s.changedMode = false → s.dir = .read → s.rxPendingValid = true →
      s.params.maxSetpoints ≤ s.spCount.toNat → exec .stepSetpoints s = .next { s with
        toggle := !s.toggle
        state := stFailed
        xferState := .done
        result := .failure
        failReason := .cause .overflow
        errorCode := 0
        message := .overflow }) ∧
    (s.changedMode = false → s.dir = .read → s.rxPendingValid = false → exec .stepSetpoints s = .next { s with
      toggle := !s.toggle
      expectedStatus := BitVec.ofNat 32 (0x404 + (!s.toggle).toNat)
      nextModeStatus := BitVec.ofNat 32 (0x004 + (!s.toggle).toNat)
      bufferResponse := true })

/-- In state Finished of a write session result, xfer_state and message become Success, Done, MSG_DONE and nothing
else changes. In a read session with a pending setpoint and room it is appended first and projection_req is
pulsed; with SP full the session fails with Overflow and no pulse is made. Rests on 43_step_sequencer R212,
45_word_serializer R258. -/
def Obligations.FinishedArmIsTheRule : Prop :=
    ∀ (s : State), s.state = stFinished → Memory.wf s.sp = true →
    (s.dir = .write → exec .stepFinished s = .next { s with
      result := .success, xferState := .done, message := .done }) ∧
    (s.dir = .read → s.rxPendingValid = true → s.spCount.toNat < s.params.maxSetpoints →
      ∃ t, exec .stepFinished s = .next t ∧ t = { s with
          sp := t.sp
          spCount := s.spCount + 1
          rxPendingValid := false
          log := s.log ++ [.projectionReq]
          result := .success
          xferState := .done
          message := .done } ∧
        wordAt t.sp s.spCount.toNat = s.rxPending ∧
        ∀ a, ¬ inBytes (4 * s.spCount.toNat) 4 a → readByte t.sp a = readByte s.sp a) ∧
    (s.dir = .read → s.rxPendingValid = true → s.params.maxSetpoints ≤ s.spCount.toNat →
      exec .stepFinished s = .next { s with
        state := stFailed
        xferState := .done
        result := .failure
        failReason := .cause .overflow
        errorCode := 0
        message := .overflow })

/-- In every state value above 4, STEP.UNKNOWN sets state Failed, xfer_state Done, result Failure, fail_reason
UnknownState, error_code 0 and message MSG_UNKNOWN_STATE; nothing else changes. Rests on 43_step_sequencer R214,
60_exceptions R307. -/
def Obligations.UnknownStateFailsTheSession : Prop :=
    ∀ (s : State), 4 < s.state.toNat → exec .stepUnknown s = .next { s with
        state := stFailed
        xferState := .done
        result := .failure
        failReason := .cause .unknownState
        errorCode := 0
        message := .unknownState }

/-- A busy engine in Init that waits for nothing, its reads and the control write ok: a tick with the lock free and
granted, and STEP under the lock with the step of a tick due, pulse delete_curve_req in a write session, write
INIT_CONTROL_WORD to control_word, set both codes to 0x0F, waiting_for_status to 1, timeout_ctr and changed_mode
to 0, whatever the status word; nothing else changes, but that after STEP no step is due. Rests on
43_step_sequencer R206, 43_step_sequencer R205, 47_cycle_scheduler R285. -/
def Obligations.FirstStepOfASession : Prop :=
    ∀ (s : State) (c : Cycle), s.xferState = .busy → s.state = stInit → s.waitingForStatus = false →
    s.bufferResponse = false → c.statusOk = true → c.valueOk = true → c.controlWr = true →
    ∃ t, t = { s with
        log := s.log ++ (match s.dir with
          | .write => [.deleteCurveReq s.curveId]
          | .read => []) ++ [.write .controlWord s.params.initControlWord]
        changedMode := false
        nextModeStatus := 0x0F
        expectedStatus := 0x0F
        waitingForStatus := true
        timeoutCtr := 0 } ∧
      (s.lock = .free → exec (.tick c true) s = .next t) ∧
      (s.lock = .held → exec (.step c) s = .next { t with lock := .stepped })

/-- A busy session waiting in CurveInfo (or Setpoints) with the codes of its toggle, looks left, the lock free and
granted, and a cycle that brings the steady code, all accesses ok. Writing, the cursor not at its end: the word
under the cursor goes to value_out, then the control word of the phase with the flipped toggle; the cursor
advances. Reading, with room: value_in becomes word rx_count of DESC (or is appended as SP[sp_count]), one word
and no other byte, the count advances, and the control word with the flipped toggle is written. The codes follow
the new toggle, the wait is armed again; nothing else changes. Rests on 43_step_sequencer R196,
43_step_sequencer R208, 43_step_sequencer R210, 45_word_serializer R251, 45_word_serializer R255,
45_word_serializer R258, 44_toggle_status_decode R246, 47_cycle_scheduler R285. -/
def Obligations.SteadyAnswerMovesOneWord : Prop :=
    (∀ (s : State) (v : Word), s.params.wf = true → s.xferState = .busy → s.lock = .free → s.dir = .write → s.waitingForStatus = true →
    s.bufferResponse = false → s.timeoutCtr.toNat < s.params.timeoutCycles → s.txPos.toNat < s.txLen.toNat →
    (s.state = stCurveInfo → s.nextModeStatus = 0x002 + bit 32 s.toggle → s.expectedStatus = 0x402 + bit 32 s.toggle →
      s.txSrc = .fromDesc → s.txPos.toNat < descWords →
      exec (.tick (goodCycle s.expectedStatus v) true) s = .next { s with
        log := s.log ++ [.write .valueOut (wordAt s.desc s.txPos.toNat),
          .write .controlWord (BitVec.ofNat 32 ((s.params.baseModeWrite + 1) * 256 + 2 + (!s.toggle).toNat))]
        changedMode := false
        toggle := !s.toggle
        nextModeStatus := 0x002 + bit 32 (!s.toggle)
        expectedStatus := 0x402 + bit 32 (!s.toggle)
        txPos := s.txPos + 1
        timeoutCtr := 0 }) ∧
    (s.state = stSetpoints → s.nextModeStatus = 0x004 + bit 32 s.toggle → s.expectedStatus = 0x404 + bit 32 s.toggle →
      s.txSrc = .fromSp → s.txPos.toNat < s.params.maxSetpoints →
      exec (.tick (goodCycle s.expectedStatus v) true) s = .next { s with
        log := s.log ++ [.write .valueOut (wordAt s.sp s.txPos.toNat),
          .write .controlWord (BitVec.ofNat 32 ((s.params.baseModeWrite + 2) * 256 + 4 + (!s.toggle).toNat))]
        changedMode := false
        toggle := !s.toggle
        nextModeStatus := 0x004 + bit 32 (!s.toggle)
        expectedStatus := 0x404 + bit 32 (!s.toggle)
        txPos := s.txPos + 1
        timeoutCtr := 0 })) ∧
    (∀ (s : State) (v : Word), s.params.wf = true → s.xferState = .busy → s.lock = .free → s.dir = .read →
    s.waitingForStatus = true → s.bufferResponse = true → s.timeoutCtr.toNat < s.params.timeoutCycles →
    Memory.wf s.desc = true → Memory.wf s.sp = true →
    (s.state = stCurveInfo → s.nextModeStatus = 0x002 + bit 32 s.toggle → s.expectedStatus = 0x402 + bit 32 s.toggle →
      s.rxTarget = .toDesc → s.rxCount.toNat < s.rxCap.toNat → s.rxCount.toNat < descWords →
      ∃ t, exec (.tick (goodCycle s.expectedStatus v) true) s = .next t ∧ t = { s with
          desc := t.desc
          rxCount := s.rxCount + 1
          log := s.log ++ [.write .controlWord
            (BitVec.ofNat 32 ((s.params.baseModeRead + 1) * 256 + 2 + (!s.toggle).toNat))]
          changedMode := false
          toggle := !s.toggle
          nextModeStatus := 0x002 + bit 32 (!s.toggle)
          expectedStatus := 0x402 + bit 32 (!s.toggle)
          timeoutCtr := 0 } ∧
        wordAt t.desc s.rxCount.toNat = v ∧
        ∀ a, ¬ inBytes (4 * s.rxCount.toNat) 4 a → readByte t.desc a = readByte s.desc a) ∧
    (s.state = stSetpoints → s.nextModeStatus = 0x004 + bit 32 s.toggle → s.expectedStatus = 0x404 + bit 32 s.toggle →
      s.rxTarget = .toPending → s.spCount.toNat < s.params.maxSetpoints →
      ∃ t, exec (.tick (goodCycle s.expectedStatus v) true) s = .next t ∧ t = { s with
          sp := t.sp
          spCount := s.spCount + 1
          rxPending := v
          rxPendingValid := false
          log := s.log ++ [.write .controlWord
            (BitVec.ofNat 32 ((s.params.baseModeRead + 2) * 256 + 4 + (!s.toggle).toNat))]
          changedMode := false
          toggle := !s.toggle
          nextModeStatus := 0x004 + bit 32 (!s.toggle)
          expectedStatus := 0x404 + bit 32 (!s.toggle)
          timeoutCtr := 0 } ∧
        wordAt t.sp s.spCount.toNat = v ∧
        ∀ a, ¬ inBytes (4 * s.spCount.toNat) 4 a → readByte t.sp a = readByte s.sp a))

/-- A tick of a busy engine that waits, the lock free and granted, both reads ok. With looks left, a status word of
class NOMATCH changes timeout_ctr by 1 (and changed_mode to 0) and nothing else: no endpoint is written, toggle
and codes stay. With none left the session fails with Timeout and no endpoint is written, whatever the status
word, an advance code included. Formalises R239, R271. -/
def Obligations.SkippedAndExpiredLooks : Prop :=
    ∀ (s : State) (c : Cycle), s.xferState = .busy → s.lock = .free → s.waitingForStatus = true → readsOk c →
    (s.timeoutCtr.toNat < s.params.timeoutCycles → s.params.timeoutCycles < 2 ^ 32 → classify c.status s = .nomatch →
      exec (.tick c true) s = .next { s with timeoutCtr := s.timeoutCtr + 1, changedMode := false }) ∧
    (s.params.timeoutCycles ≤ s.timeoutCtr.toNat → s.timeoutCtr.toNat + 1 < 2 ^ 32 →
      exec (.tick c true) s = .next { s with
        timeoutCtr := s.timeoutCtr + 1
        changedMode := false
        state := stFailed
        xferState := .done
        result := .failure
        failReason := .cause .timeout
        errorCode := 0
        message := .timeout })

/-- Ticks with the lock free and granted. One whose status or value read fails changes nothing. If a tick with all
writes ok leads to t, its new events are L: with writes that pass for all of L the tick leads to t; otherwise no
register changes and only the events before the first failing write are recorded; and a retry with all writes ok
from there leads to t, with all of L written again. Rests on 43_step_sequencer R198, 43_step_sequencer R199,
60_exceptions R308, 70_reset_and_hazards R357. -/
def Obligations.TransportFailureChangesNoRegister : Prop :=
    ∀ (s t : State) (c : Cycle), s.lock = .free →
    ((c.statusOk = false ∨ c.valueOk = false) → exec (.tick c true) s = .next s) ∧
    (exec (.tick (writesOk c) true) s = .next t →
      t.log = s.log ++ added s.log t.log ∧
      ((∀ e ∈ added s.log t.log, passes c e = true) → exec (.tick c true) s = .next t) ∧
      ((∃ e ∈ added s.log t.log, passes c e = false) →
        exec (.tick c true) s = .next { s with log := s.log ++ (added s.log t.log).takeWhile (passes c) }) ∧
      exec (.tick (writesOk c) true) { s with log := s.log ++ (added s.log t.log).takeWhile (passes c) } =
        .next { t with log := s.log ++ (added s.log t.log).takeWhile (passes c) ++ added s.log t.log })

/-- Whatever the cycle, after a tick (or a STEP) of a busy engine state is what it was, or its successor (then the
engine waited, had looks left, and the status word was next_mode_status), or Failed with xfer_state Done and
result Failure. It never moves backwards or skips a phase. Rests on 43_step_sequencer R215, 10_state R22,
60_exceptions R320. -/
def Obligations.StepMovesStateAsTheTable : Prop :=
    ∀ (s t : State) (c : Cycle) (i : Instr), brings c i → s.xferState = .busy → exec i s = .next t →
    t.state = s.state ∨
    (t.state = succState s.state ∧ s.waitingForStatus = true ∧ c.status = s.nextModeStatus ∧
      (s.timeoutCtr + 1).toNat ≤ s.params.timeoutCycles ∧ readsOk c) ∨
    (t.state = stFailed ∧ t.xferState = .done ∧ t.result = .failure)

/-- The new events of a tick (or of a STEP) are at most: one delete_curve_req pulse, one write of index_out, one of
value_out, one of control_word, one projection_req pulse, in this order; a step that fails the session makes
none; no two of the pulse of deletion and the write of index_out occur together. Rests on 20_memory R79,
20_memory R83, 60_exceptions R310. -/
def Obligations.StepAccessesEachEndpointOnceInOrder : Prop :=
    ∀ (s t : State) (c : Cycle) (i : Instr), brings c i → exec i s = .next t →
    (∃ d x v w p : List OutEvent, t.log = s.log ++ d ++ x ++ v ++ w ++ p ∧
      (d = [] ∨ (d = [.deleteCurveReq s.curveId] ∧ t.dir = .write ∧ x = [])) ∧
      (x = [] ∨ x = [.write .indexOut (BitVec.ofNat 32 s.curveId.toNat)]) ∧
      (v = [] ∨ ∃ y, v = [.write .valueOut y]) ∧ (w = [] ∨ ∃ y, w = [.write .controlWord y]) ∧
      (p = [] ∨ (p = [.projectionReq] ∧ d = [] ∧ x = [] ∧ v = [] ∧ w = []))) ∧
    (s.xferState = .busy → t.xferState = .done → t.result = .failure → t.log = s.log)

/-- For a busy engine with the lock free: a granted tick is LOCK.ACQ, exactly one STEP, LOCK.REL (the lock is free
again however the step ended); a tick not granted changes only the CTE's side of the lock, to waiting; a tick
during such a step is refused, as U13 asks. LOCK.ACQ granted gives a waiting step the lock, LOCK.REL gives back
the lock of a step that has run, and nothing else changes. That the lock's state is held, and that LOCK.ACQ and
LOCK.REL change nothing elsewhere, is the model's choice (log 9). Rests on 47_cycle_scheduler R285,
47_cycle_scheduler R288, 93_implementation_defined U13. -/
def Obligations.TickRunsOneStepUnderTheLock : Prop :=
    ∀ (s : State) (c : Cycle) (g : Bool),
    (s.xferState = .busy → s.lock = .free →
      (∀ t, exec (.step c) { s with lock := .held } = .next t → exec (.tick c true) s = .next { t with lock := .free }) ∧
      (∀ t, exec (.tick c true) s = .next t → exec (.step c) { s with lock := .held } = .next { t with lock := .stepped }) ∧
      exec (.tick c false) s = .next { s with lock := .waiting }) ∧
    (s.xferState = .busy → s.lock ≠ .free → exec (.tick c g) s = .refused .tickOverrun) ∧
    (s.xferState = .busy → s.lock = .waiting → exec (.lockAcq true) s = .next { s with lock := .held }) ∧
    (s.lock = .stepped → exec .lockRel s = .next { s with lock := .free }) ∧
    (g = false ∨ s.xferState ≠ .busy ∨ s.lock ≠ .waiting → exec (.lockAcq g) s = .next s) ∧
    (s.lock ≠ .stepped → exec .lockRel s = .next s)

/-- For an engine whose xfer_state is Idle or Done a tick, granted or not, whatever the cycle brings, changes
nothing: no register, no endpoint, no lock; the same holds of STEP and of TICK.IDLE. Formalises R286. -/
def Obligations.TickDoesNothingUnlessBusy : Prop :=
    ∀ (s : State) (c : Cycle) (g : Bool), s.xferState ≠ .busy →
    exec (.tick c g) s = .next s ∧ exec .tickIdle s = .next s ∧ exec (.step c) s = .next s

/-- The machine right after reset, and the machine after the operation RESET from every state, hold the value of R51
in every register to which R51 gives one; RESET records no event and leaves the parameters. DESC, SP and
rx_pending, which R51 leaves unspecified, are not spoken of. Rests on 10_state R51, 70_reset_and_hazards R340,
10_state R44. -/
def Obligations.ResetLeavesTheListedValues : Prop :=
    (State.reset.state = stInit ∧ State.reset.xferState = .idle ∧ State.reset.result = .success ∧ State.reset.message = .none ∧
      State.reset.failReason = .none ∧ State.reset.errorCode = 0 ∧ State.reset.underflowFlag = false ∧ State.reset.dir = .write ∧
      State.reset.curveId = 0 ∧ State.reset.toggle = false ∧ State.reset.waitingForStatus = false ∧ State.reset.changedMode = false ∧
      State.reset.bufferResponse = false ∧ State.reset.expectedStatus = 0 ∧ State.reset.nextModeStatus = 0 ∧ State.reset.timeoutCtr = 0 ∧
      State.reset.txSrc = .fromDesc ∧ State.reset.txPos = 0 ∧ State.reset.txLen = 0 ∧ State.reset.rxTarget = .toDesc ∧ State.reset.rxCount = 0 ∧
      State.reset.rxCap = 0 ∧ State.reset.rxPendingValid = false ∧ State.reset.spCount = 0) ∧
    ∀ (s : State), ∃ t, exec .reset s = .next t ∧
      (t.state = stInit ∧ t.xferState = .idle ∧ t.result = .success ∧ t.message = .none ∧
      t.failReason = .none ∧ t.errorCode = 0 ∧ t.underflowFlag = false ∧ t.dir = .write ∧
      t.curveId = 0 ∧ t.toggle = false ∧ t.waitingForStatus = false ∧ t.changedMode = false ∧
      t.bufferResponse = false ∧ t.expectedStatus = 0 ∧ t.nextModeStatus = 0 ∧ t.timeoutCtr = 0 ∧
      t.txSrc = .fromDesc ∧ t.txPos = 0 ∧ t.txLen = 0 ∧ t.rxTarget = .toDesc ∧ t.rxCount = 0 ∧
      t.rxCap = 0 ∧ t.rxPendingValid = false ∧ t.spCount = 0) ∧
      t.log = s.log ∧ t.params = s.params

/-- State.reset meets the two invariants: parameters in their ranges, memories in canonical form and in range,
counts and cursors in bounds; no session in flight, no failure recorded. Rests on 10_state R51, 00_scope R9,
70_reset_and_hazards R340. -/
def Obligations.InvariantsHoldAtReset : Prop :=
    Kept State.reset ∧ Session State.reset

/-- From every state that meets the invariant (parameters in range; DESC and SP in canonical form and inside their
address ranges; sp_count <= MAX_SETPOINTS; tx_pos <= tx_len; both cursors and the receive counter inside their
memories; error_code 0 unless the failure is the device's), whatever event comes next, the next state meets it.
Rests on 10_state R32, 10_state R34, 10_state R35, 10_state R36, 10_state R37, 10_state R42, 43_step_sequencer
R217, 20_memory R70. -/
def Obligations.EveryStepKeepsTheInvariant : Prop :=
    ∀ (s t : State), Kept s → step s = .next t → Kept t

/-- From every state that meets both invariants, an event the hardware's surroundings can cause leads to a state
that meets the session invariant: phase, codes and toggle agree; reception is armed exactly in the data phases
of a read session; no setpoint is pending between steps; the counter never exceeds TIMEOUT_CYCLES + 1; in a
write session DESC describes the curve; a step is due only in a busy engine; a session that ended is Finished
with success or Failed with its cause and message. Rests on 43_step_sequencer R213, 43_step_sequencer R215,
44_toggle_status_decode R241, 44_toggle_status_decode R243, 44_toggle_status_decode R244, 45_word_serializer
R257, 46_timeout_error R273, 60_exceptions R310, 10_state R28, 40_descriptor_codec R143, 47_cycle_scheduler
R286. -/
def Obligations.OutsideEventsKeepTheSession : Prop :=
    ∀ (s t : State), Kept s → Session s → nextOutside s = true → step s = .next t → Session t

/-- From a state that meets the invariant no operation faults but POS.ENCODE with an index outside SP; and in every
state only three operations are ever refused: XLEN.ENCODE with a dt that is not finite or a product whose floor
is not below 2^32, POS.ENCODE with a position or a product that is not finite or a tick that is no signed 32-bit
number, and a tick of a busy engine while a step still waits for or holds the lock. Rests on 20_memory R70,
93_implementation_defined U9, 93_implementation_defined U10, 93_implementation_defined U13. -/
def Obligations.StopsAreOnlyTheSpecsOwn : Prop :=
    ∀ (s : State) (i : Instr),
    (∀ e, Kept s → exec i s = .fault e →
      e = .spAddress ∧ ∃ k p, i = .posEncode k p ∧ s.params.maxSetpoints ≤ k.toNat) ∧
    (∀ r, exec i s = .refused r →
      (r = .xlenDomain ∧ ∃ n dt, i = .xlenEncode n dt ∧
        (fFinite dt = false ∨ 2 ^ 32 ≤ fFloor (fMul (fMul (fOfNat n.toNat) dt) (fOfNat 100000)))) ∨
      (r = .posDomain ∧ ∃ k p, i = .posEncode k p ∧
        (fFinite p = false ∨ fFinite (fMul p positionScale) = false ∨
          posRound s.params (fMul p positionScale) < -(2 ^ 31) ∨ 2 ^ 31 ≤ posRound s.params (fMul p positionScale))) ∨
      (r = .tickOverrun ∧ s.xferState = .busy ∧ s.lock ≠ .free ∧ ∃ c g, i = .tick c g))

/-- In a session that waits, after a tick or a STEP that wrote the control word, every status word whose low byte is
that of the codes before the step is of class NOMATCH against the codes after it, whatever its other bits. Rests
on 44_toggle_status_decode R245, 30_encoding R105. -/
def Obligations.StaleAnswersMatchNothing : Prop :=
    ∀ (s t : State) (c : Cycle) (i : Instr) (sw x : Word), brings c i → Session s → s.xferState = .busy → s.waitingForStatus = true →
    exec i s = .next t → .write .controlWord x ∈ added s.log t.log →
    sw.toNat % 256 = s.expectedStatus.toNat % 256 → classify sw t = .nomatch

/-- In a busy write session that meets the session invariant no event the surroundings can cause, except RESET,
changes a byte of DESC or SP or sp_count: not the steps, not the device's words, not the host. Rests on
60_exceptions R312, 20_memory R91, 42_requests R188, 45_word_serializer R259. -/
def Obligations.WriteSessionNeverTouchesTheCurve : Prop :=
    ∀ (s t : State) (i : Instr), Session s → s.xferState = .busy → s.dir = .write → outside i = true → i ≠ .reset →
    exec i s = .next t → t.desc = s.desc ∧ t.sp = s.sp ∧ t.spCount = s.spCount

/-- In a memory in canonical form, after storing a word at a word index the word at that index is it, byte k of it
is bits 8k+7 to 8k, every byte elsewhere reads as before, and the memory is in canonical form; two memories in
canonical form that read alike are equal. Rests on 20_memory R72, 20_memory R74. -/
def Obligations.StoredWordsReadBack : Prop :=
    ∀ (m n : Memory) (k : Nat) (w : Word), Memory.wf m = true → Memory.wf n = true →
    wordAt (storeWord m k w) k = w ∧
    (∀ j : Fin 4, (readByte (storeWord m k w) (4 * k + j.val)).toNat = w.toNat / 256 ^ j.val % 256) ∧
    (∀ a, ¬ inBytes (4 * k) 4 a → readByte (storeWord m k w) a = readByte m a) ∧
    Memory.wf (storeWord m k w) = true ∧ ((∀ a, readByte m a = readByte n a) → m = n)

/-- From every state right after an accepted write request of n setpoints, the lock free, with TIMEOUT_CYCLES at
least 1, n + 21 granted ticks with a device that answers each exchange at once end in Finished with Success and
no underflow, and the words written to value_out meanwhile are the block-size word, the 18 words of DESC in
order and SP[0] to SP[n-1] in order, each exactly once; one index word, the curve id, was written; DESC, SP and
sp_count are unchanged. Rests on 43_step_sequencer R216, 45_word_serializer R260, 43_step_sequencer R209,
43_step_sequencer R211. -/
def Obligations.WriteSessionDeliversTheCurve : Prop :=
    ∀ (s : State), Kept s → Session s → s.xferState = .busy → s.lock = .free → s.dir = .write → s.state = stInit →
    s.waitingForStatus = false → 1 ≤ s.params.timeoutCycles →
    ∃ t, takingRun (s.spCount.toNat + 21) s = .next t ∧ t.state = stFinished ∧ t.xferState = .done ∧
      t.result = .success ∧ t.underflowFlag = s.underflowFlag ∧
      t.desc = s.desc ∧ t.sp = s.sp ∧ t.spCount = s.spCount ∧
      wordsTo .indexOut (added s.log t.log) = [BitVec.ofNat 32 s.curveId.toNat] ∧
      wordsTo .valueOut (added s.log t.log) =
        BitVec.ofNat 32 (s.spCount.toNat % 16384 * 262144 + 70) ::
          ((List.range 18).map (wordAt s.desc) ++ (List.range s.spCount.toNat).map (wordAt s.sp))

/-- From every state right after an accepted read request, the lock free, with TIMEOUT_CYCLES at least 1, and a
device that answers each exchange at once with 18 descriptor words d and n setpoints p, 1 <= n <= MAX_SETPOINTS:
n + 21 granted ticks end in Finished with Success, word k of DESC is d k, sp_count is n, SP[i] is p i,
projection_req was pulsed last, and every byte of SP beyond reads as before. Rests on 43_step_sequencer R216,
45_word_serializer R260, 43_step_sequencer R209, 43_step_sequencer R211. -/
def Obligations.ReadSessionReceivesTheCurve : Prop :=
    ∀ (s : State) (d : Nat → Word) (p : List Word), Kept s → Session s → s.xferState = .busy → s.lock = .free → s.dir = .read →
    s.state = stInit → s.waitingForStatus = false → 1 ≤ s.params.timeoutCycles →
    1 ≤ p.length → p.length ≤ s.params.maxSetpoints →
    ∃ t, givingRun d p (p.length + 21) s = .next t ∧ t.state = stFinished ∧ t.xferState = .done ∧
      t.result = .success ∧ t.spCount.toNat = p.length ∧ (∀ k, k < 18 → wordAt t.desc k = d k) ∧
      (∀ k, k < p.length → p[k]? = some (wordAt t.sp k)) ∧
      (∀ a, 4 * p.length ≤ a → readByte t.sp a = readByte s.sp a) ∧
      (added s.log t.log).getLast? = some .projectionReq

/-- STEP changes nothing where no step is due under the lock; after STEP of a busy engine none is due, so a second
STEP changes nothing; no operation but a tick makes a step due: if one is due after it, waiting for the lock or
holding it, one was due before; a tick of an engine with the lock free leaves a step due only if the engine is
busy and the lock was not granted. How a due step is held in the lock's state is the model's choice (log 9).
Rests on 70_reset_and_hazards R350, 47_cycle_scheduler R290, 47_cycle_scheduler R286, 43_step_sequencer R195. -/
def Obligations.OneStepPerTick : Prop :=
    ∀ (s t : State) (c d : Cycle) (i : Instr) (g : Bool),
    (s.lock ≠ .held → exec (.step c) s = .next s) ∧
    (s.xferState = .busy → exec (.step c) s = .next t → t.lock ≠ .held ∧ exec (.step d) t = .next t) ∧
    ((∀ e b, i ≠ .tick e b) → exec i s = .next t → t.lock = .waiting ∨ t.lock = .held →
      s.lock = .waiting ∨ s.lock = .held) ∧
    (s.lock = .free → exec (.tick c g) s = .next t →
      t.lock = if s.xferState = .busy ∧ g = false then .waiting else .free)
end

