-- ==== Sys2Proof/Laws/Decode.lean ====
section
/-! SUPPORT. What each reader gives on the bytes its encoder writes, and the reader of each tag. -/

namespace Sys2Proof

@[simp] theorem rdPure_apply {α : Type} (a : α) (bs : List Byte) : rdPure a bs = .ok (a, bs) := rfl
@[simp] theorem rdFail_apply {α : Type} (r : Reject) (bs : List Byte) : (rdFail r : Reader α) bs = .error r := rfl

/-- A reader that reads `l` and gives `a`, whatever follows. -/
def Reads {α : Type} (p : Reader α) (l : List Byte) (a : α) : Prop := ∀ rest, p (l ++ rest) = .ok (a, rest)

theorem Reads.pure {α : Type} (a : α) : Reads (rdPure a) [] a := fun _ => rfl

/-- Reading one thing and then another. -/
theorem Reads.andThen {α β : Type} {p : Reader α} {f : α → Reader β} {l m : List Byte} {a : α} {b : β}
    (hp : Reads p l a) (hf : Reads (f a) m b) : Reads (rdThen p f) (l ++ m) b := by
  intro rest
  simp only [rdThen, List.append_assoc, hp (m ++ rest), hf rest]

/-- Reading a last thing and giving a value made of it. -/
theorem Reads.andPure {α β : Type} {p : Reader α} {f : α → β} {l : List Byte} {a : α}
    (hp : Reads p l a) : Reads (rdThen p fun x => rdPure (f x)) l (f a) := by
  intro rest
  simp only [rdThen, hp rest, rdPure_apply]

theorem reads_byte (b : Byte) : Reads rdByte [b] b := fun _ => rfl

theorem reads_bit (t : Bool) : Reads rdBit (encBit t) t := by
  intro rest
  cases t <;> rfl

theorem join16_le16 (v : Half) : join16 (v.extractLsb' 0 8) (v.extractLsb' 8 8) = v := by
  apply BitVec.eq_of_getLsbD_eq
  intro i hi
  simp only [join16, BitVec.getLsbD_append, BitVec.getLsbD_extractLsb']
  split
  · rename_i h; simp [h]
  · have h : i - 8 < 8 := by omega
    simp only [h, decide_true, Bool.true_and]; congr 1; omega

theorem join32_bytes (w : Word) :
    join32 (w.extractLsb' 0 8) (w.extractLsb' 8 8) (w.extractLsb' 16 8) (w.extractLsb' 24 8) = w := by
  apply BitVec.eq_of_getLsbD_eq
  intro i hi
  simp only [join32, BitVec.getLsbD_append, BitVec.getLsbD_extractLsb']
  split
  · rename_i h; simp [h]
  · split
    · rename_i _ h; simp only [h, decide_true, Bool.true_and]; congr 1; omega
    · split
      · rename_i _ h; simp only [h, decide_true, Bool.true_and]; congr 1; omega
      · have h : i - 8 - 8 - 8 < 8 := by omega
        simp only [h, decide_true, Bool.true_and]; congr 1; omega

theorem join64_halves (v : BitVec 64) : join64 (v.extractLsb' 0 32) (v.extractLsb' 32 32) = v := by
  apply BitVec.eq_of_getLsbD_eq
  intro i hi
  simp only [join64, BitVec.getLsbD_append, BitVec.getLsbD_extractLsb']
  split
  · rename_i h; simp [h]
  · have h : i - 32 < 32 := by omega
    simp only [h, decide_true, Bool.true_and]; congr 1; omega

theorem reads_half (v : Half) : Reads rdHalf (le16 v) v := by
  intro rest
  simp only [rdHalf, rdThen, le16, List.cons_append, List.nil_append, rdByte, rdPure_apply, join16_le16]

theorem reads_word (w : Word) : Reads rdWord (le32 w) w := by
  intro rest
  simp only [rdWord, rdThen, le32, List.cons_append, List.nil_append, rdByte, rdPure_apply, join32_bytes]

theorem reads_long (v : BitVec 64) : Reads rdLong (le64 v) v := by
  intro rest
  have h0 := reads_word (v.extractLsb' 0 32) (le32 (v.extractLsb' 32 32) ++ rest)
  have h1 := reads_word (v.extractLsb' 32 32) rest
  simp only [rdLong, rdThen, le64, List.append_assoc, h0, h1, rdPure_apply, join64_halves]

theorem reads_list (l : List Byte) : Reads (rdList l.length) l l := by
  induction l with
  | nil => exact Reads.pure []
  | cons b l ih => exact Reads.andThen (reads_byte b) (Reads.andPure (f := fun l => b :: l) ih)

theorem reads_option {α : Type} {p : Reader α} {e : α → List Byte} (h : ∀ a, Reads p (e a) a) (o : Option α) :
    Reads (rdOption p) (encOption e o) o := by
  cases o with
  | none => exact fun rest => by simp [rdOption, rdThen, encOption, reads_bit false rest]
  | some a =>
    exact Reads.andThen (reads_bit true) (Reads.andPure (f := some) (h a))

theorem flatMap_append_singleton {α : Type} (e : α → List Byte) (l : List α) (a : α) :
    (l ++ [a]).flatMap e = l.flatMap e ++ e a := by simp

/-- A vector of things read one after another. -/
theorem reads_vector {α : Type} {p : Reader α} {e : α → List Byte} (h : ∀ a, Reads p (e a) a) :
    ∀ {n : Nat} (v : Vector α n), Reads (rdVector p n) (v.toList.flatMap e) v := by
  intro n
  induction n with
  | zero =>
    intro v
    have hv : v = #v[] := by ext i hi; omega
    subst hv
    exact Reads.pure _
  | succ n ih =>
    intro v
    have hv : v = v.pop.push v.back := (Vector.push_pop_back v).symm
    generalize v.pop = u at hv
    generalize v.back = a at hv
    subst hv
    have ht : (u.push a).toList.flatMap e = u.toList.flatMap e ++ e a := by
      rw [Vector.toList_push]; exact flatMap_append_singleton e _ a
    rw [ht]
    exact Reads.andThen (ih u) (Reads.andPure (f := fun a => u.push a) (h a))

theorem reads_bytes {n : Nat} (v : Vector Byte n) : Reads (rdVector rdByte n) v.toList v := by
  have h := reads_vector (p := rdByte) (e := fun b => [b]) reads_byte v
  have e : ∀ l : List Byte, l.flatMap (fun b => [b]) = l := fun l => by induction l <;> simp_all
  rwa [e] at h

theorem reads_words {n : Nat} (v : Vector Word n) : Reads (rdVector rdWord n) (v.toList.flatMap le32) v :=
  reads_vector reads_word v

/-- The record (30_encoding R110). -/
theorem reads_fields (f : Fields) : Reads rdFields f.bytes f := by
  unfold Fields.bytes rdFields
  simp only [List.append_assoc]
  refine Reads.andThen (reads_half _) <| Reads.andThen (reads_half _) <| Reads.andThen (reads_half _) <|
    Reads.andThen (reads_half _) <| Reads.andThen (reads_bytes _) <| Reads.andThen (reads_half _) <|
    Reads.andThen (reads_word _) <| Reads.andThen (reads_half _) <| Reads.andThen (reads_half _) <|
    Reads.andThen (reads_half _) ?_
  exact Reads.andPure (f := fun p => { f with wizardParams := p }) (reads_words f.wizardParams)

theorem reads_cycle (c : Cycle) : Reads rdCycle (encCycle c) c := by
  unfold encCycle rdCycle
  simp only [List.append_assoc]
  refine Reads.andThen (reads_bit _) <| Reads.andThen (reads_word _) <| Reads.andThen (reads_bit _) <|
    Reads.andThen (reads_word _) <| Reads.andThen (reads_bit _) <| Reads.andThen (reads_bit _) ?_
  exact Reads.andPure (f := fun b => { c with controlWr := b }) (reads_bit _)

theorem reads_request (r : Request) : Reads rdRequest (encRequest r) r := by
  cases r with
  | write id count ok =>
    intro rest
    have h0 := reads_half id (le16 count ++ (encBit ok ++ rest))
    have h1 := reads_half count (encBit ok ++ rest)
    have h2 := reads_bit ok rest
    simp [rdRequest, rdThen, encRequest, rdByte, h0, h1, h2]
  | read id =>
    intro rest
    have := (Reads.andPure (f := Request.read) (reads_half id)) rest
    simpa [rdRequest, rdThen, encRequest, rdByte] using this

theorem reads_cause (k : Cause) : Reads rdCause [causeNumber k] k := by
  intro rest
  cases k <;> rfl

theorem reads_projectArgs (a : ProjectArgs) : Reads rdProjectArgs (encProjectArgs a) a := by
  unfold encProjectArgs rdProjectArgs
  simp only [List.append_assoc]
  refine Reads.andThen (reads_bit _) <| Reads.andThen (reads_option reads_long _) <|
    Reads.andThen (reads_option reads_long _) ?_
  exact Reads.andPure (f := fun d => { a with direction := d }) (reads_word _)

theorem reads_name (s : Option (List Byte)) (h : nameLengthOk s = true) : Reads rdName (encName s) s := by
  cases s with
  | none => exact fun rest => by simp [rdName, rdOption, rdThen, encName, encOption, reads_bit false rest]
  | some l =>
    have hl : (BitVec.ofNat 16 l.length).toNat = l.length := by
      simp only [nameLengthOk, decide_eq_true_eq] at h
      simp only [BitVec.toNat_ofNat]; omega
    refine Reads.andThen (reads_bit true) (Reads.andPure (f := some) (a := l) ?_)
    refine Reads.andThen (reads_half (BitVec.ofNat 16 l.length)) ?_
    rw [hl]
    exact reads_list l

/-! ### The fields of a word built from its fields (30_encoding) -/

@[simp] theorem lowByte_cwBits (m : BitVec 24) (ph : BitVec 2) (t : Bool) : lowByte (cwBits m ph t) = cwLow ph t := by
  apply BitVec.eq_of_getLsbD_eq
  intro i hi
  simp only [lowByte, cwBits, BitVec.getLsbD_append, BitVec.getLsbD_extractLsb']
  simp [hi]

@[simp] theorem mode_cwBits (m : BitVec 24) (ph : BitVec 2) (t : Bool) : (cwBits m ph t).extractLsb' 8 24 = m := by
  apply BitVec.eq_of_getLsbD_eq
  intro i hi
  simp only [cwBits, BitVec.getLsbD_append, BitVec.getLsbD_extractLsb']
  simp [hi]

@[simp] theorem lowByte_swBits (u : Half) (c e : Byte) : lowByte (swBits u c e) = e := by
  apply BitVec.eq_of_getLsbD_eq
  intro i hi
  simp only [lowByte, swBits, BitVec.getLsbD_append, BitVec.getLsbD_extractLsb']
  simp [hi]

@[simp] theorem codeByte_swBits (u : Half) (c e : Byte) : codeByte (swBits u c e) = c := by
  apply BitVec.eq_of_getLsbD_eq
  intro i hi
  simp only [codeByte, swBits, BitVec.getLsbD_append, BitVec.getLsbD_extractLsb']
  simp [hi]

@[simp] theorem upper_swBits (u : Half) (c e : Byte) : upper (swBits u c e) = u := by
  apply BitVec.eq_of_getLsbD_eq
  intro i hi
  simp only [upper, swBits, BitVec.getLsbD_append, BitVec.getLsbD_extractLsb']
  rw [if_neg (by omega), if_neg (by omega)]
  have e : 16 + i - 8 - 8 = i := by omega
  simp [hi, e]

@[simp] theorem upper_iwBits (v : Half) : upper (iwBits v) = 0 := by
  apply BitVec.eq_of_getLsbD_eq
  intro i hi
  simp only [upper, iwBits, BitVec.getLsbD_extractLsb', BitVec.getLsbD_setWidth]
  simp

@[simp] theorem low_iwBits (v : Half) : (iwBits v).extractLsb' 0 16 = v := by
  apply BitVec.eq_of_getLsbD_eq
  intro i hi
  simp only [iwBits, BitVec.getLsbD_extractLsb', BitVec.getLsbD_setWidth]
  simp [hi]
  omega

@[simp] theorem low_bwBits (v : BitVec 14) : (bwBits v).extractLsb' 0 18 = 70 := by
  apply BitVec.eq_of_getLsbD_eq
  intro i hi
  simp only [bwBits, BitVec.getLsbD_extractLsb', BitVec.getLsbD_append]
  interval_cases i <;> simp

@[simp] theorem count_bwBits (v : BitVec 14) : (bwBits v).extractLsb' 18 14 = v := by
  apply BitVec.eq_of_getLsbD_eq
  intro i hi
  simp only [bwBits, BitVec.getLsbD_extractLsb', BitVec.getLsbD_append]
  rw [if_neg (by omega), if_neg (by omega)]
  have e : 18 + i - 16 - 2 = i := by omega
  simp [hi, e]

end Sys2Proof
end

