-- ==== Sys2Proof/Laws/State.lean ====
section
/-! SUPPORT. What each named update does to each field of State: one lemma per field, by rfl, for simp. -/

namespace Sys2Proof.Machine

/-! ### `emit` -/

@[simp] theorem emit_state (e : OutEvent) (s : State) : (emit e s).state = s.state := rfl
@[simp] theorem emit_dir (e : OutEvent) (s : State) : (emit e s).dir = s.dir := rfl
@[simp] theorem emit_curveId (e : OutEvent) (s : State) : (emit e s).curveId = s.curveId := rfl
@[simp] theorem emit_toggle (e : OutEvent) (s : State) : (emit e s).toggle = s.toggle := rfl
@[simp] theorem emit_waitingForStatus (e : OutEvent) (s : State) : (emit e s).waitingForStatus = s.waitingForStatus := rfl
@[simp] theorem emit_changedMode (e : OutEvent) (s : State) : (emit e s).changedMode = s.changedMode := rfl
@[simp] theorem emit_bufferResponse (e : OutEvent) (s : State) : (emit e s).bufferResponse = s.bufferResponse := rfl
@[simp] theorem emit_expectedStatus (e : OutEvent) (s : State) : (emit e s).expectedStatus = s.expectedStatus := rfl
@[simp] theorem emit_nextModeStatus (e : OutEvent) (s : State) : (emit e s).nextModeStatus = s.nextModeStatus := rfl
@[simp] theorem emit_timeoutCtr (e : OutEvent) (s : State) : (emit e s).timeoutCtr = s.timeoutCtr := rfl
@[simp] theorem emit_desc (e : OutEvent) (s : State) : (emit e s).desc = s.desc := rfl
@[simp] theorem emit_sp (e : OutEvent) (s : State) : (emit e s).sp = s.sp := rfl
@[simp] theorem emit_spCount (e : OutEvent) (s : State) : (emit e s).spCount = s.spCount := rfl
@[simp] theorem emit_txSrc (e : OutEvent) (s : State) : (emit e s).txSrc = s.txSrc := rfl
@[simp] theorem emit_txPos (e : OutEvent) (s : State) : (emit e s).txPos = s.txPos := rfl
@[simp] theorem emit_txLen (e : OutEvent) (s : State) : (emit e s).txLen = s.txLen := rfl
@[simp] theorem emit_rxTarget (e : OutEvent) (s : State) : (emit e s).rxTarget = s.rxTarget := rfl
@[simp] theorem emit_rxCount (e : OutEvent) (s : State) : (emit e s).rxCount = s.rxCount := rfl
@[simp] theorem emit_rxCap (e : OutEvent) (s : State) : (emit e s).rxCap = s.rxCap := rfl
@[simp] theorem emit_rxPending (e : OutEvent) (s : State) : (emit e s).rxPending = s.rxPending := rfl
@[simp] theorem emit_rxPendingValid (e : OutEvent) (s : State) : (emit e s).rxPendingValid = s.rxPendingValid := rfl
@[simp] theorem emit_xferState (e : OutEvent) (s : State) : (emit e s).xferState = s.xferState := rfl
@[simp] theorem emit_result (e : OutEvent) (s : State) : (emit e s).result = s.result := rfl
@[simp] theorem emit_message (e : OutEvent) (s : State) : (emit e s).message = s.message := rfl
@[simp] theorem emit_failReason (e : OutEvent) (s : State) : (emit e s).failReason = s.failReason := rfl
@[simp] theorem emit_errorCode (e : OutEvent) (s : State) : (emit e s).errorCode = s.errorCode := rfl
@[simp] theorem emit_underflowFlag (e : OutEvent) (s : State) : (emit e s).underflowFlag = s.underflowFlag := rfl
@[simp] theorem emit_host (e : OutEvent) (s : State) : (emit e s).host = s.host := rfl
@[simp] theorem emit_lock (e : OutEvent) (s : State) : (emit e s).lock = s.lock := rfl
@[simp] theorem emit_profile (e : OutEvent) (s : State) : (emit e s).profile = s.profile := rfl
@[simp] theorem emit_profileCount (e : OutEvent) (s : State) : (emit e s).profileCount = s.profileCount := rfl
@[simp] theorem emit_params (e : OutEvent) (s : State) : (emit e s).params = s.params := rfl
@[simp] theorem emit_log (e : OutEvent) (s : State) : (emit e s).log = s.log ++ [e] := rfl
@[simp] theorem emit_answer (e : OutEvent) (s : State) : (emit e s).answer = s.answer := rfl
@[simp] theorem emit_script (e : OutEvent) (s : State) : (emit e s).script = s.script := rfl
@[simp] theorem emit_resets (e : OutEvent) (s : State) : (emit e s).resets = s.resets := rfl

/-! ### `answering` -/

@[simp] theorem answering_state (a : Answer) (s : State) : (answering a s).state = s.state := rfl
@[simp] theorem answering_dir (a : Answer) (s : State) : (answering a s).dir = s.dir := rfl
@[simp] theorem answering_curveId (a : Answer) (s : State) : (answering a s).curveId = s.curveId := rfl
@[simp] theorem answering_toggle (a : Answer) (s : State) : (answering a s).toggle = s.toggle := rfl
@[simp] theorem answering_waitingForStatus (a : Answer) (s : State) : (answering a s).waitingForStatus = s.waitingForStatus := rfl
@[simp] theorem answering_changedMode (a : Answer) (s : State) : (answering a s).changedMode = s.changedMode := rfl
@[simp] theorem answering_bufferResponse (a : Answer) (s : State) : (answering a s).bufferResponse = s.bufferResponse := rfl
@[simp] theorem answering_expectedStatus (a : Answer) (s : State) : (answering a s).expectedStatus = s.expectedStatus := rfl
@[simp] theorem answering_nextModeStatus (a : Answer) (s : State) : (answering a s).nextModeStatus = s.nextModeStatus := rfl
@[simp] theorem answering_timeoutCtr (a : Answer) (s : State) : (answering a s).timeoutCtr = s.timeoutCtr := rfl
@[simp] theorem answering_desc (a : Answer) (s : State) : (answering a s).desc = s.desc := rfl
@[simp] theorem answering_sp (a : Answer) (s : State) : (answering a s).sp = s.sp := rfl
@[simp] theorem answering_spCount (a : Answer) (s : State) : (answering a s).spCount = s.spCount := rfl
@[simp] theorem answering_txSrc (a : Answer) (s : State) : (answering a s).txSrc = s.txSrc := rfl
@[simp] theorem answering_txPos (a : Answer) (s : State) : (answering a s).txPos = s.txPos := rfl
@[simp] theorem answering_txLen (a : Answer) (s : State) : (answering a s).txLen = s.txLen := rfl
@[simp] theorem answering_rxTarget (a : Answer) (s : State) : (answering a s).rxTarget = s.rxTarget := rfl
@[simp] theorem answering_rxCount (a : Answer) (s : State) : (answering a s).rxCount = s.rxCount := rfl
@[simp] theorem answering_rxCap (a : Answer) (s : State) : (answering a s).rxCap = s.rxCap := rfl
@[simp] theorem answering_rxPending (a : Answer) (s : State) : (answering a s).rxPending = s.rxPending := rfl
@[simp] theorem answering_rxPendingValid (a : Answer) (s : State) : (answering a s).rxPendingValid = s.rxPendingValid := rfl
@[simp] theorem answering_xferState (a : Answer) (s : State) : (answering a s).xferState = s.xferState := rfl
@[simp] theorem answering_result (a : Answer) (s : State) : (answering a s).result = s.result := rfl
@[simp] theorem answering_message (a : Answer) (s : State) : (answering a s).message = s.message := rfl
@[simp] theorem answering_failReason (a : Answer) (s : State) : (answering a s).failReason = s.failReason := rfl
@[simp] theorem answering_errorCode (a : Answer) (s : State) : (answering a s).errorCode = s.errorCode := rfl
@[simp] theorem answering_underflowFlag (a : Answer) (s : State) : (answering a s).underflowFlag = s.underflowFlag := rfl
@[simp] theorem answering_host (a : Answer) (s : State) : (answering a s).host = s.host := rfl
@[simp] theorem answering_lock (a : Answer) (s : State) : (answering a s).lock = s.lock := rfl
@[simp] theorem answering_profile (a : Answer) (s : State) : (answering a s).profile = s.profile := rfl
@[simp] theorem answering_profileCount (a : Answer) (s : State) : (answering a s).profileCount = s.profileCount := rfl
@[simp] theorem answering_params (a : Answer) (s : State) : (answering a s).params = s.params := rfl
@[simp] theorem answering_log (a : Answer) (s : State) : (answering a s).log = s.log := rfl
@[simp] theorem answering_answer (a : Answer) (s : State) : (answering a s).answer = a := rfl
@[simp] theorem answering_script (a : Answer) (s : State) : (answering a s).script = s.script := rfl
@[simp] theorem answering_resets (a : Answer) (s : State) : (answering a s).resets = s.resets := rfl

/-! ### `withScript` -/

@[simp] theorem withScript_state (bs : List Byte) (s : State) : (withScript bs s).state = s.state := rfl
@[simp] theorem withScript_dir (bs : List Byte) (s : State) : (withScript bs s).dir = s.dir := rfl
@[simp] theorem withScript_curveId (bs : List Byte) (s : State) : (withScript bs s).curveId = s.curveId := rfl
@[simp] theorem withScript_toggle (bs : List Byte) (s : State) : (withScript bs s).toggle = s.toggle := rfl
@[simp] theorem withScript_waitingForStatus (bs : List Byte) (s : State) : (withScript bs s).waitingForStatus = s.waitingForStatus := rfl
@[simp] theorem withScript_changedMode (bs : List Byte) (s : State) : (withScript bs s).changedMode = s.changedMode := rfl
@[simp] theorem withScript_bufferResponse (bs : List Byte) (s : State) : (withScript bs s).bufferResponse = s.bufferResponse := rfl
@[simp] theorem withScript_expectedStatus (bs : List Byte) (s : State) : (withScript bs s).expectedStatus = s.expectedStatus := rfl
@[simp] theorem withScript_nextModeStatus (bs : List Byte) (s : State) : (withScript bs s).nextModeStatus = s.nextModeStatus := rfl
@[simp] theorem withScript_timeoutCtr (bs : List Byte) (s : State) : (withScript bs s).timeoutCtr = s.timeoutCtr := rfl
@[simp] theorem withScript_desc (bs : List Byte) (s : State) : (withScript bs s).desc = s.desc := rfl
@[simp] theorem withScript_sp (bs : List Byte) (s : State) : (withScript bs s).sp = s.sp := rfl
@[simp] theorem withScript_spCount (bs : List Byte) (s : State) : (withScript bs s).spCount = s.spCount := rfl
@[simp] theorem withScript_txSrc (bs : List Byte) (s : State) : (withScript bs s).txSrc = s.txSrc := rfl
@[simp] theorem withScript_txPos (bs : List Byte) (s : State) : (withScript bs s).txPos = s.txPos := rfl
@[simp] theorem withScript_txLen (bs : List Byte) (s : State) : (withScript bs s).txLen = s.txLen := rfl
@[simp] theorem withScript_rxTarget (bs : List Byte) (s : State) : (withScript bs s).rxTarget = s.rxTarget := rfl
@[simp] theorem withScript_rxCount (bs : List Byte) (s : State) : (withScript bs s).rxCount = s.rxCount := rfl
@[simp] theorem withScript_rxCap (bs : List Byte) (s : State) : (withScript bs s).rxCap = s.rxCap := rfl
@[simp] theorem withScript_rxPending (bs : List Byte) (s : State) : (withScript bs s).rxPending = s.rxPending := rfl
@[simp] theorem withScript_rxPendingValid (bs : List Byte) (s : State) : (withScript bs s).rxPendingValid = s.rxPendingValid := rfl
@[simp] theorem withScript_xferState (bs : List Byte) (s : State) : (withScript bs s).xferState = s.xferState := rfl
@[simp] theorem withScript_result (bs : List Byte) (s : State) : (withScript bs s).result = s.result := rfl
@[simp] theorem withScript_message (bs : List Byte) (s : State) : (withScript bs s).message = s.message := rfl
@[simp] theorem withScript_failReason (bs : List Byte) (s : State) : (withScript bs s).failReason = s.failReason := rfl
@[simp] theorem withScript_errorCode (bs : List Byte) (s : State) : (withScript bs s).errorCode = s.errorCode := rfl
@[simp] theorem withScript_underflowFlag (bs : List Byte) (s : State) : (withScript bs s).underflowFlag = s.underflowFlag := rfl
@[simp] theorem withScript_host (bs : List Byte) (s : State) : (withScript bs s).host = s.host := rfl
@[simp] theorem withScript_lock (bs : List Byte) (s : State) : (withScript bs s).lock = s.lock := rfl
@[simp] theorem withScript_profile (bs : List Byte) (s : State) : (withScript bs s).profile = s.profile := rfl
@[simp] theorem withScript_profileCount (bs : List Byte) (s : State) : (withScript bs s).profileCount = s.profileCount := rfl
@[simp] theorem withScript_params (bs : List Byte) (s : State) : (withScript bs s).params = s.params := rfl
@[simp] theorem withScript_log (bs : List Byte) (s : State) : (withScript bs s).log = s.log := rfl
@[simp] theorem withScript_answer (bs : List Byte) (s : State) : (withScript bs s).answer = s.answer := rfl
@[simp] theorem withScript_script (bs : List Byte) (s : State) : (withScript bs s).script = bs := rfl
@[simp] theorem withScript_resets (bs : List Byte) (s : State) : (withScript bs s).resets = s.resets := rfl

/-! ### `failed` -/

@[simp] theorem failed_state (k : Cause) (c : Byte) (s : State) : (failed k c s).state = 5 := rfl
@[simp] theorem failed_dir (k : Cause) (c : Byte) (s : State) : (failed k c s).dir = s.dir := rfl
@[simp] theorem failed_curveId (k : Cause) (c : Byte) (s : State) : (failed k c s).curveId = s.curveId := rfl
@[simp] theorem failed_toggle (k : Cause) (c : Byte) (s : State) : (failed k c s).toggle = s.toggle := rfl
@[simp] theorem failed_waitingForStatus (k : Cause) (c : Byte) (s : State) : (failed k c s).waitingForStatus = s.waitingForStatus := rfl
@[simp] theorem failed_changedMode (k : Cause) (c : Byte) (s : State) : (failed k c s).changedMode = s.changedMode := rfl
@[simp] theorem failed_bufferResponse (k : Cause) (c : Byte) (s : State) : (failed k c s).bufferResponse = s.bufferResponse := rfl
@[simp] theorem failed_expectedStatus (k : Cause) (c : Byte) (s : State) : (failed k c s).expectedStatus = s.expectedStatus := rfl
@[simp] theorem failed_nextModeStatus (k : Cause) (c : Byte) (s : State) : (failed k c s).nextModeStatus = s.nextModeStatus := rfl
@[simp] theorem failed_timeoutCtr (k : Cause) (c : Byte) (s : State) : (failed k c s).timeoutCtr = s.timeoutCtr := rfl
@[simp] theorem failed_desc (k : Cause) (c : Byte) (s : State) : (failed k c s).desc = s.desc := rfl
@[simp] theorem failed_sp (k : Cause) (c : Byte) (s : State) : (failed k c s).sp = s.sp := rfl
@[simp] theorem failed_spCount (k : Cause) (c : Byte) (s : State) : (failed k c s).spCount = s.spCount := rfl
@[simp] theorem failed_txSrc (k : Cause) (c : Byte) (s : State) : (failed k c s).txSrc = s.txSrc := rfl
@[simp] theorem failed_txPos (k : Cause) (c : Byte) (s : State) : (failed k c s).txPos = s.txPos := rfl
@[simp] theorem failed_txLen (k : Cause) (c : Byte) (s : State) : (failed k c s).txLen = s.txLen := rfl
@[simp] theorem failed_rxTarget (k : Cause) (c : Byte) (s : State) : (failed k c s).rxTarget = s.rxTarget := rfl
@[simp] theorem failed_rxCount (k : Cause) (c : Byte) (s : State) : (failed k c s).rxCount = s.rxCount := rfl
@[simp] theorem failed_rxCap (k : Cause) (c : Byte) (s : State) : (failed k c s).rxCap = s.rxCap := rfl
@[simp] theorem failed_rxPending (k : Cause) (c : Byte) (s : State) : (failed k c s).rxPending = s.rxPending := rfl
@[simp] theorem failed_rxPendingValid (k : Cause) (c : Byte) (s : State) : (failed k c s).rxPendingValid = s.rxPendingValid := rfl
@[simp] theorem failed_xferState (k : Cause) (c : Byte) (s : State) : (failed k c s).xferState = .done := rfl
@[simp] theorem failed_result (k : Cause) (c : Byte) (s : State) : (failed k c s).result = .failure := rfl
@[simp] theorem failed_message (k : Cause) (c : Byte) (s : State) : (failed k c s).message = causeMessage k := rfl
@[simp] theorem failed_failReason (k : Cause) (c : Byte) (s : State) : (failed k c s).failReason = .cause k := rfl
@[simp] theorem failed_errorCode (k : Cause) (c : Byte) (s : State) : (failed k c s).errorCode = (if k = .deviceError then c else 0) := rfl
@[simp] theorem failed_underflowFlag (k : Cause) (c : Byte) (s : State) : (failed k c s).underflowFlag = s.underflowFlag := rfl
@[simp] theorem failed_host (k : Cause) (c : Byte) (s : State) : (failed k c s).host = s.host := rfl
@[simp] theorem failed_lock (k : Cause) (c : Byte) (s : State) : (failed k c s).lock = s.lock := rfl
@[simp] theorem failed_profile (k : Cause) (c : Byte) (s : State) : (failed k c s).profile = s.profile := rfl
@[simp] theorem failed_profileCount (k : Cause) (c : Byte) (s : State) : (failed k c s).profileCount = s.profileCount := rfl
@[simp] theorem failed_params (k : Cause) (c : Byte) (s : State) : (failed k c s).params = s.params := rfl
@[simp] theorem failed_log (k : Cause) (c : Byte) (s : State) : (failed k c s).log = s.log := rfl
@[simp] theorem failed_answer (k : Cause) (c : Byte) (s : State) : (failed k c s).answer = s.answer := rfl
@[simp] theorem failed_script (k : Cause) (c : Byte) (s : State) : (failed k c s).script = s.script := rfl
@[simp] theorem failed_resets (k : Cause) (c : Byte) (s : State) : (failed k c s).resets = s.resets := rfl

/-! ### `startSession` -/

@[simp] theorem startSession_state (s : State) : (startSession s).state = 0 := rfl
@[simp] theorem startSession_dir (s : State) : (startSession s).dir = s.dir := rfl
@[simp] theorem startSession_curveId (s : State) : (startSession s).curveId = s.curveId := rfl
@[simp] theorem startSession_toggle (s : State) : (startSession s).toggle = false := rfl
@[simp] theorem startSession_waitingForStatus (s : State) : (startSession s).waitingForStatus = false := rfl
@[simp] theorem startSession_changedMode (s : State) : (startSession s).changedMode = false := rfl
@[simp] theorem startSession_bufferResponse (s : State) : (startSession s).bufferResponse = false := rfl
@[simp] theorem startSession_expectedStatus (s : State) : (startSession s).expectedStatus = 0 := rfl
@[simp] theorem startSession_nextModeStatus (s : State) : (startSession s).nextModeStatus = 0 := rfl
@[simp] theorem startSession_timeoutCtr (s : State) : (startSession s).timeoutCtr = 0 := rfl
@[simp] theorem startSession_desc (s : State) : (startSession s).desc = s.desc := rfl
@[simp] theorem startSession_sp (s : State) : (startSession s).sp = s.sp := rfl
@[simp] theorem startSession_spCount (s : State) : (startSession s).spCount = s.spCount := rfl
@[simp] theorem startSession_txSrc (s : State) : (startSession s).txSrc = .fromDesc := rfl
@[simp] theorem startSession_txPos (s : State) : (startSession s).txPos = 0 := rfl
@[simp] theorem startSession_txLen (s : State) : (startSession s).txLen = 0 := rfl
@[simp] theorem startSession_rxTarget (s : State) : (startSession s).rxTarget = .toDesc := rfl
@[simp] theorem startSession_rxCount (s : State) : (startSession s).rxCount = 0 := rfl
@[simp] theorem startSession_rxCap (s : State) : (startSession s).rxCap = 0 := rfl
@[simp] theorem startSession_rxPending (s : State) : (startSession s).rxPending = s.rxPending := rfl
@[simp] theorem startSession_rxPendingValid (s : State) : (startSession s).rxPendingValid = false := rfl
@[simp] theorem startSession_xferState (s : State) : (startSession s).xferState = .busy := rfl
@[simp] theorem startSession_result (s : State) : (startSession s).result = .success := rfl
@[simp] theorem startSession_message (s : State) : (startSession s).message = .busy := rfl
@[simp] theorem startSession_failReason (s : State) : (startSession s).failReason = .none := rfl
@[simp] theorem startSession_errorCode (s : State) : (startSession s).errorCode = 0 := rfl
@[simp] theorem startSession_underflowFlag (s : State) : (startSession s).underflowFlag = false := rfl
@[simp] theorem startSession_host (s : State) : (startSession s).host = s.host := rfl
@[simp] theorem startSession_lock (s : State) : (startSession s).lock = s.lock := rfl
@[simp] theorem startSession_profile (s : State) : (startSession s).profile = s.profile := rfl
@[simp] theorem startSession_profileCount (s : State) : (startSession s).profileCount = s.profileCount := rfl
@[simp] theorem startSession_params (s : State) : (startSession s).params = s.params := rfl
@[simp] theorem startSession_log (s : State) : (startSession s).log = s.log := rfl
@[simp] theorem startSession_answer (s : State) : (startSession s).answer = s.answer := rfl
@[simp] theorem startSession_script (s : State) : (startSession s).script = s.script := rfl
@[simp] theorem startSession_resets (s : State) : (startSession s).resets = s.resets := rfl

/-! ### `setToggle` -/

@[simp] theorem setToggle_state (t : Bool) (s : State) : (setToggle t s).state = s.state := rfl
@[simp] theorem setToggle_dir (t : Bool) (s : State) : (setToggle t s).dir = s.dir := rfl
@[simp] theorem setToggle_curveId (t : Bool) (s : State) : (setToggle t s).curveId = s.curveId := rfl
@[simp] theorem setToggle_toggle (t : Bool) (s : State) : (setToggle t s).toggle = t := rfl
@[simp] theorem setToggle_waitingForStatus (t : Bool) (s : State) : (setToggle t s).waitingForStatus = s.waitingForStatus := rfl
@[simp] theorem setToggle_changedMode (t : Bool) (s : State) : (setToggle t s).changedMode = s.changedMode := rfl
@[simp] theorem setToggle_bufferResponse (t : Bool) (s : State) : (setToggle t s).bufferResponse = s.bufferResponse := rfl
@[simp] theorem setToggle_expectedStatus (t : Bool) (s : State) : (setToggle t s).expectedStatus = s.expectedStatus := rfl
@[simp] theorem setToggle_nextModeStatus (t : Bool) (s : State) : (setToggle t s).nextModeStatus = s.nextModeStatus := rfl
@[simp] theorem setToggle_timeoutCtr (t : Bool) (s : State) : (setToggle t s).timeoutCtr = s.timeoutCtr := rfl
@[simp] theorem setToggle_desc (t : Bool) (s : State) : (setToggle t s).desc = s.desc := rfl
@[simp] theorem setToggle_sp (t : Bool) (s : State) : (setToggle t s).sp = s.sp := rfl
@[simp] theorem setToggle_spCount (t : Bool) (s : State) : (setToggle t s).spCount = s.spCount := rfl
@[simp] theorem setToggle_txSrc (t : Bool) (s : State) : (setToggle t s).txSrc = s.txSrc := rfl
@[simp] theorem setToggle_txPos (t : Bool) (s : State) : (setToggle t s).txPos = s.txPos := rfl
@[simp] theorem setToggle_txLen (t : Bool) (s : State) : (setToggle t s).txLen = s.txLen := rfl
@[simp] theorem setToggle_rxTarget (t : Bool) (s : State) : (setToggle t s).rxTarget = s.rxTarget := rfl
@[simp] theorem setToggle_rxCount (t : Bool) (s : State) : (setToggle t s).rxCount = s.rxCount := rfl
@[simp] theorem setToggle_rxCap (t : Bool) (s : State) : (setToggle t s).rxCap = s.rxCap := rfl
@[simp] theorem setToggle_rxPending (t : Bool) (s : State) : (setToggle t s).rxPending = s.rxPending := rfl
@[simp] theorem setToggle_rxPendingValid (t : Bool) (s : State) : (setToggle t s).rxPendingValid = s.rxPendingValid := rfl
@[simp] theorem setToggle_xferState (t : Bool) (s : State) : (setToggle t s).xferState = s.xferState := rfl
@[simp] theorem setToggle_result (t : Bool) (s : State) : (setToggle t s).result = s.result := rfl
@[simp] theorem setToggle_message (t : Bool) (s : State) : (setToggle t s).message = s.message := rfl
@[simp] theorem setToggle_failReason (t : Bool) (s : State) : (setToggle t s).failReason = s.failReason := rfl
@[simp] theorem setToggle_errorCode (t : Bool) (s : State) : (setToggle t s).errorCode = s.errorCode := rfl
@[simp] theorem setToggle_underflowFlag (t : Bool) (s : State) : (setToggle t s).underflowFlag = s.underflowFlag := rfl
@[simp] theorem setToggle_host (t : Bool) (s : State) : (setToggle t s).host = s.host := rfl
@[simp] theorem setToggle_lock (t : Bool) (s : State) : (setToggle t s).lock = s.lock := rfl
@[simp] theorem setToggle_profile (t : Bool) (s : State) : (setToggle t s).profile = s.profile := rfl
@[simp] theorem setToggle_profileCount (t : Bool) (s : State) : (setToggle t s).profileCount = s.profileCount := rfl
@[simp] theorem setToggle_params (t : Bool) (s : State) : (setToggle t s).params = s.params := rfl
@[simp] theorem setToggle_log (t : Bool) (s : State) : (setToggle t s).log = s.log := rfl
@[simp] theorem setToggle_answer (t : Bool) (s : State) : (setToggle t s).answer = s.answer := rfl
@[simp] theorem setToggle_script (t : Bool) (s : State) : (setToggle t s).script = s.script := rfl
@[simp] theorem setToggle_resets (t : Bool) (s : State) : (setToggle t s).resets = s.resets := rfl

/-! ### `flipToggle` -/

@[simp] theorem flipToggle_state (s : State) : (flipToggle s).state = s.state := rfl
@[simp] theorem flipToggle_dir (s : State) : (flipToggle s).dir = s.dir := rfl
@[simp] theorem flipToggle_curveId (s : State) : (flipToggle s).curveId = s.curveId := rfl
@[simp] theorem flipToggle_toggle (s : State) : (flipToggle s).toggle = !s.toggle := rfl
@[simp] theorem flipToggle_waitingForStatus (s : State) : (flipToggle s).waitingForStatus = s.waitingForStatus := rfl
@[simp] theorem flipToggle_changedMode (s : State) : (flipToggle s).changedMode = s.changedMode := rfl
@[simp] theorem flipToggle_bufferResponse (s : State) : (flipToggle s).bufferResponse = s.bufferResponse := rfl
@[simp] theorem flipToggle_expectedStatus (s : State) : (flipToggle s).expectedStatus = s.expectedStatus := rfl
@[simp] theorem flipToggle_nextModeStatus (s : State) : (flipToggle s).nextModeStatus = s.nextModeStatus := rfl
@[simp] theorem flipToggle_timeoutCtr (s : State) : (flipToggle s).timeoutCtr = s.timeoutCtr := rfl
@[simp] theorem flipToggle_desc (s : State) : (flipToggle s).desc = s.desc := rfl
@[simp] theorem flipToggle_sp (s : State) : (flipToggle s).sp = s.sp := rfl
@[simp] theorem flipToggle_spCount (s : State) : (flipToggle s).spCount = s.spCount := rfl
@[simp] theorem flipToggle_txSrc (s : State) : (flipToggle s).txSrc = s.txSrc := rfl
@[simp] theorem flipToggle_txPos (s : State) : (flipToggle s).txPos = s.txPos := rfl
@[simp] theorem flipToggle_txLen (s : State) : (flipToggle s).txLen = s.txLen := rfl
@[simp] theorem flipToggle_rxTarget (s : State) : (flipToggle s).rxTarget = s.rxTarget := rfl
@[simp] theorem flipToggle_rxCount (s : State) : (flipToggle s).rxCount = s.rxCount := rfl
@[simp] theorem flipToggle_rxCap (s : State) : (flipToggle s).rxCap = s.rxCap := rfl
@[simp] theorem flipToggle_rxPending (s : State) : (flipToggle s).rxPending = s.rxPending := rfl
@[simp] theorem flipToggle_rxPendingValid (s : State) : (flipToggle s).rxPendingValid = s.rxPendingValid := rfl
@[simp] theorem flipToggle_xferState (s : State) : (flipToggle s).xferState = s.xferState := rfl
@[simp] theorem flipToggle_result (s : State) : (flipToggle s).result = s.result := rfl
@[simp] theorem flipToggle_message (s : State) : (flipToggle s).message = s.message := rfl
@[simp] theorem flipToggle_failReason (s : State) : (flipToggle s).failReason = s.failReason := rfl
@[simp] theorem flipToggle_errorCode (s : State) : (flipToggle s).errorCode = s.errorCode := rfl
@[simp] theorem flipToggle_underflowFlag (s : State) : (flipToggle s).underflowFlag = s.underflowFlag := rfl
@[simp] theorem flipToggle_host (s : State) : (flipToggle s).host = s.host := rfl
@[simp] theorem flipToggle_lock (s : State) : (flipToggle s).lock = s.lock := rfl
@[simp] theorem flipToggle_profile (s : State) : (flipToggle s).profile = s.profile := rfl
@[simp] theorem flipToggle_profileCount (s : State) : (flipToggle s).profileCount = s.profileCount := rfl
@[simp] theorem flipToggle_params (s : State) : (flipToggle s).params = s.params := rfl
@[simp] theorem flipToggle_log (s : State) : (flipToggle s).log = s.log := rfl
@[simp] theorem flipToggle_answer (s : State) : (flipToggle s).answer = s.answer := rfl
@[simp] theorem flipToggle_script (s : State) : (flipToggle s).script = s.script := rfl
@[simp] theorem flipToggle_resets (s : State) : (flipToggle s).resets = s.resets := rfl

/-! ### `setCodes` -/

@[simp] theorem setCodes_state (a e : Word) (s : State) : (setCodes a e s).state = s.state := rfl
@[simp] theorem setCodes_dir (a e : Word) (s : State) : (setCodes a e s).dir = s.dir := rfl
@[simp] theorem setCodes_curveId (a e : Word) (s : State) : (setCodes a e s).curveId = s.curveId := rfl
@[simp] theorem setCodes_toggle (a e : Word) (s : State) : (setCodes a e s).toggle = s.toggle := rfl
@[simp] theorem setCodes_waitingForStatus (a e : Word) (s : State) : (setCodes a e s).waitingForStatus = s.waitingForStatus := rfl
@[simp] theorem setCodes_changedMode (a e : Word) (s : State) : (setCodes a e s).changedMode = s.changedMode := rfl
@[simp] theorem setCodes_bufferResponse (a e : Word) (s : State) : (setCodes a e s).bufferResponse = s.bufferResponse := rfl
@[simp] theorem setCodes_expectedStatus (a e : Word) (s : State) : (setCodes a e s).expectedStatus = e := rfl
@[simp] theorem setCodes_nextModeStatus (a e : Word) (s : State) : (setCodes a e s).nextModeStatus = a := rfl
@[simp] theorem setCodes_timeoutCtr (a e : Word) (s : State) : (setCodes a e s).timeoutCtr = s.timeoutCtr := rfl
@[simp] theorem setCodes_desc (a e : Word) (s : State) : (setCodes a e s).desc = s.desc := rfl
@[simp] theorem setCodes_sp (a e : Word) (s : State) : (setCodes a e s).sp = s.sp := rfl
@[simp] theorem setCodes_spCount (a e : Word) (s : State) : (setCodes a e s).spCount = s.spCount := rfl
@[simp] theorem setCodes_txSrc (a e : Word) (s : State) : (setCodes a e s).txSrc = s.txSrc := rfl
@[simp] theorem setCodes_txPos (a e : Word) (s : State) : (setCodes a e s).txPos = s.txPos := rfl
@[simp] theorem setCodes_txLen (a e : Word) (s : State) : (setCodes a e s).txLen = s.txLen := rfl
@[simp] theorem setCodes_rxTarget (a e : Word) (s : State) : (setCodes a e s).rxTarget = s.rxTarget := rfl
@[simp] theorem setCodes_rxCount (a e : Word) (s : State) : (setCodes a e s).rxCount = s.rxCount := rfl
@[simp] theorem setCodes_rxCap (a e : Word) (s : State) : (setCodes a e s).rxCap = s.rxCap := rfl
@[simp] theorem setCodes_rxPending (a e : Word) (s : State) : (setCodes a e s).rxPending = s.rxPending := rfl
@[simp] theorem setCodes_rxPendingValid (a e : Word) (s : State) : (setCodes a e s).rxPendingValid = s.rxPendingValid := rfl
@[simp] theorem setCodes_xferState (a e : Word) (s : State) : (setCodes a e s).xferState = s.xferState := rfl
@[simp] theorem setCodes_result (a e : Word) (s : State) : (setCodes a e s).result = s.result := rfl
@[simp] theorem setCodes_message (a e : Word) (s : State) : (setCodes a e s).message = s.message := rfl
@[simp] theorem setCodes_failReason (a e : Word) (s : State) : (setCodes a e s).failReason = s.failReason := rfl
@[simp] theorem setCodes_errorCode (a e : Word) (s : State) : (setCodes a e s).errorCode = s.errorCode := rfl
@[simp] theorem setCodes_underflowFlag (a e : Word) (s : State) : (setCodes a e s).underflowFlag = s.underflowFlag := rfl
@[simp] theorem setCodes_host (a e : Word) (s : State) : (setCodes a e s).host = s.host := rfl
@[simp] theorem setCodes_lock (a e : Word) (s : State) : (setCodes a e s).lock = s.lock := rfl
@[simp] theorem setCodes_profile (a e : Word) (s : State) : (setCodes a e s).profile = s.profile := rfl
@[simp] theorem setCodes_profileCount (a e : Word) (s : State) : (setCodes a e s).profileCount = s.profileCount := rfl
@[simp] theorem setCodes_params (a e : Word) (s : State) : (setCodes a e s).params = s.params := rfl
@[simp] theorem setCodes_log (a e : Word) (s : State) : (setCodes a e s).log = s.log := rfl
@[simp] theorem setCodes_answer (a e : Word) (s : State) : (setCodes a e s).answer = s.answer := rfl
@[simp] theorem setCodes_script (a e : Word) (s : State) : (setCodes a e s).script = s.script := rfl
@[simp] theorem setCodes_resets (a e : Word) (s : State) : (setCodes a e s).resets = s.resets := rfl

/-! ### `armResponse` -/

@[simp] theorem armResponse_state (s : State) : (armResponse s).state = s.state := rfl
@[simp] theorem armResponse_dir (s : State) : (armResponse s).dir = s.dir := rfl
@[simp] theorem armResponse_curveId (s : State) : (armResponse s).curveId = s.curveId := rfl
@[simp] theorem armResponse_toggle (s : State) : (armResponse s).toggle = s.toggle := rfl
@[simp] theorem armResponse_waitingForStatus (s : State) : (armResponse s).waitingForStatus = s.waitingForStatus := rfl
@[simp] theorem armResponse_changedMode (s : State) : (armResponse s).changedMode = s.changedMode := rfl
@[simp] theorem armResponse_bufferResponse (s : State) : (armResponse s).bufferResponse = decide (s.dir = .read) := rfl
@[simp] theorem armResponse_expectedStatus (s : State) : (armResponse s).expectedStatus = s.expectedStatus := rfl
@[simp] theorem armResponse_nextModeStatus (s : State) : (armResponse s).nextModeStatus = s.nextModeStatus := rfl
@[simp] theorem armResponse_timeoutCtr (s : State) : (armResponse s).timeoutCtr = s.timeoutCtr := rfl
@[simp] theorem armResponse_desc (s : State) : (armResponse s).desc = s.desc := rfl
@[simp] theorem armResponse_sp (s : State) : (armResponse s).sp = s.sp := rfl
@[simp] theorem armResponse_spCount (s : State) : (armResponse s).spCount = s.spCount := rfl
@[simp] theorem armResponse_txSrc (s : State) : (armResponse s).txSrc = s.txSrc := rfl
@[simp] theorem armResponse_txPos (s : State) : (armResponse s).txPos = s.txPos := rfl
@[simp] theorem armResponse_txLen (s : State) : (armResponse s).txLen = s.txLen := rfl
@[simp] theorem armResponse_rxTarget (s : State) : (armResponse s).rxTarget = s.rxTarget := rfl
@[simp] theorem armResponse_rxCount (s : State) : (armResponse s).rxCount = s.rxCount := rfl
@[simp] theorem armResponse_rxCap (s : State) : (armResponse s).rxCap = s.rxCap := rfl
@[simp] theorem armResponse_rxPending (s : State) : (armResponse s).rxPending = s.rxPending := rfl
@[simp] theorem armResponse_rxPendingValid (s : State) : (armResponse s).rxPendingValid = s.rxPendingValid := rfl
@[simp] theorem armResponse_xferState (s : State) : (armResponse s).xferState = s.xferState := rfl
@[simp] theorem armResponse_result (s : State) : (armResponse s).result = s.result := rfl
@[simp] theorem armResponse_message (s : State) : (armResponse s).message = s.message := rfl
@[simp] theorem armResponse_failReason (s : State) : (armResponse s).failReason = s.failReason := rfl
@[simp] theorem armResponse_errorCode (s : State) : (armResponse s).errorCode = s.errorCode := rfl
@[simp] theorem armResponse_underflowFlag (s : State) : (armResponse s).underflowFlag = s.underflowFlag := rfl
@[simp] theorem armResponse_host (s : State) : (armResponse s).host = s.host := rfl
@[simp] theorem armResponse_lock (s : State) : (armResponse s).lock = s.lock := rfl
@[simp] theorem armResponse_profile (s : State) : (armResponse s).profile = s.profile := rfl
@[simp] theorem armResponse_profileCount (s : State) : (armResponse s).profileCount = s.profileCount := rfl
@[simp] theorem armResponse_params (s : State) : (armResponse s).params = s.params := rfl
@[simp] theorem armResponse_log (s : State) : (armResponse s).log = s.log := rfl
@[simp] theorem armResponse_answer (s : State) : (armResponse s).answer = s.answer := rfl
@[simp] theorem armResponse_script (s : State) : (armResponse s).script = s.script := rfl
@[simp] theorem armResponse_resets (s : State) : (armResponse s).resets = s.resets := rfl

/-! ### `advance` -/

@[simp] theorem advance_state (s : State) : (advance s).state = succState s.state := rfl
@[simp] theorem advance_dir (s : State) : (advance s).dir = s.dir := rfl
@[simp] theorem advance_curveId (s : State) : (advance s).curveId = s.curveId := rfl
@[simp] theorem advance_toggle (s : State) : (advance s).toggle = s.toggle := rfl
@[simp] theorem advance_waitingForStatus (s : State) : (advance s).waitingForStatus = s.waitingForStatus := rfl
@[simp] theorem advance_changedMode (s : State) : (advance s).changedMode = true := rfl
@[simp] theorem advance_bufferResponse (s : State) : (advance s).bufferResponse = s.bufferResponse := rfl
@[simp] theorem advance_expectedStatus (s : State) : (advance s).expectedStatus = s.expectedStatus := rfl
@[simp] theorem advance_nextModeStatus (s : State) : (advance s).nextModeStatus = s.nextModeStatus := rfl
@[simp] theorem advance_timeoutCtr (s : State) : (advance s).timeoutCtr = s.timeoutCtr := rfl
@[simp] theorem advance_desc (s : State) : (advance s).desc = s.desc := rfl
@[simp] theorem advance_sp (s : State) : (advance s).sp = s.sp := rfl
@[simp] theorem advance_spCount (s : State) : (advance s).spCount = s.spCount := rfl
@[simp] theorem advance_txSrc (s : State) : (advance s).txSrc = s.txSrc := rfl
@[simp] theorem advance_txPos (s : State) : (advance s).txPos = s.txPos := rfl
@[simp] theorem advance_txLen (s : State) : (advance s).txLen = s.txLen := rfl
@[simp] theorem advance_rxTarget (s : State) : (advance s).rxTarget = s.rxTarget := rfl
@[simp] theorem advance_rxCount (s : State) : (advance s).rxCount = s.rxCount := rfl
@[simp] theorem advance_rxCap (s : State) : (advance s).rxCap = s.rxCap := rfl
@[simp] theorem advance_rxPending (s : State) : (advance s).rxPending = s.rxPending := rfl
@[simp] theorem advance_rxPendingValid (s : State) : (advance s).rxPendingValid = s.rxPendingValid := rfl
@[simp] theorem advance_xferState (s : State) : (advance s).xferState = s.xferState := rfl
@[simp] theorem advance_result (s : State) : (advance s).result = s.result := rfl
@[simp] theorem advance_message (s : State) : (advance s).message = s.message := rfl
@[simp] theorem advance_failReason (s : State) : (advance s).failReason = s.failReason := rfl
@[simp] theorem advance_errorCode (s : State) : (advance s).errorCode = s.errorCode := rfl
@[simp] theorem advance_underflowFlag (s : State) : (advance s).underflowFlag = s.underflowFlag := rfl
@[simp] theorem advance_host (s : State) : (advance s).host = s.host := rfl
@[simp] theorem advance_lock (s : State) : (advance s).lock = s.lock := rfl
@[simp] theorem advance_profile (s : State) : (advance s).profile = s.profile := rfl
@[simp] theorem advance_profileCount (s : State) : (advance s).profileCount = s.profileCount := rfl
@[simp] theorem advance_params (s : State) : (advance s).params = s.params := rfl
@[simp] theorem advance_log (s : State) : (advance s).log = s.log := rfl
@[simp] theorem advance_answer (s : State) : (advance s).answer = s.answer := rfl
@[simp] theorem advance_script (s : State) : (advance s).script = s.script := rfl
@[simp] theorem advance_resets (s : State) : (advance s).resets = s.resets := rfl

/-! ### `clearChanged` -/

@[simp] theorem clearChanged_state (s : State) : (clearChanged s).state = s.state := rfl
@[simp] theorem clearChanged_dir (s : State) : (clearChanged s).dir = s.dir := rfl
@[simp] theorem clearChanged_curveId (s : State) : (clearChanged s).curveId = s.curveId := rfl
@[simp] theorem clearChanged_toggle (s : State) : (clearChanged s).toggle = s.toggle := rfl
@[simp] theorem clearChanged_waitingForStatus (s : State) : (clearChanged s).waitingForStatus = s.waitingForStatus := rfl
@[simp] theorem clearChanged_changedMode (s : State) : (clearChanged s).changedMode = false := rfl
@[simp] theorem clearChanged_bufferResponse (s : State) : (clearChanged s).bufferResponse = s.bufferResponse := rfl
@[simp] theorem clearChanged_expectedStatus (s : State) : (clearChanged s).expectedStatus = s.expectedStatus := rfl
@[simp] theorem clearChanged_nextModeStatus (s : State) : (clearChanged s).nextModeStatus = s.nextModeStatus := rfl
@[simp] theorem clearChanged_timeoutCtr (s : State) : (clearChanged s).timeoutCtr = s.timeoutCtr := rfl
@[simp] theorem clearChanged_desc (s : State) : (clearChanged s).desc = s.desc := rfl
@[simp] theorem clearChanged_sp (s : State) : (clearChanged s).sp = s.sp := rfl
@[simp] theorem clearChanged_spCount (s : State) : (clearChanged s).spCount = s.spCount := rfl
@[simp] theorem clearChanged_txSrc (s : State) : (clearChanged s).txSrc = s.txSrc := rfl
@[simp] theorem clearChanged_txPos (s : State) : (clearChanged s).txPos = s.txPos := rfl
@[simp] theorem clearChanged_txLen (s : State) : (clearChanged s).txLen = s.txLen := rfl
@[simp] theorem clearChanged_rxTarget (s : State) : (clearChanged s).rxTarget = s.rxTarget := rfl
@[simp] theorem clearChanged_rxCount (s : State) : (clearChanged s).rxCount = s.rxCount := rfl
@[simp] theorem clearChanged_rxCap (s : State) : (clearChanged s).rxCap = s.rxCap := rfl
@[simp] theorem clearChanged_rxPending (s : State) : (clearChanged s).rxPending = s.rxPending := rfl
@[simp] theorem clearChanged_rxPendingValid (s : State) : (clearChanged s).rxPendingValid = s.rxPendingValid := rfl
@[simp] theorem clearChanged_xferState (s : State) : (clearChanged s).xferState = s.xferState := rfl
@[simp] theorem clearChanged_result (s : State) : (clearChanged s).result = s.result := rfl
@[simp] theorem clearChanged_message (s : State) : (clearChanged s).message = s.message := rfl
@[simp] theorem clearChanged_failReason (s : State) : (clearChanged s).failReason = s.failReason := rfl
@[simp] theorem clearChanged_errorCode (s : State) : (clearChanged s).errorCode = s.errorCode := rfl
@[simp] theorem clearChanged_underflowFlag (s : State) : (clearChanged s).underflowFlag = s.underflowFlag := rfl
@[simp] theorem clearChanged_host (s : State) : (clearChanged s).host = s.host := rfl
@[simp] theorem clearChanged_lock (s : State) : (clearChanged s).lock = s.lock := rfl
@[simp] theorem clearChanged_profile (s : State) : (clearChanged s).profile = s.profile := rfl
@[simp] theorem clearChanged_profileCount (s : State) : (clearChanged s).profileCount = s.profileCount := rfl
@[simp] theorem clearChanged_params (s : State) : (clearChanged s).params = s.params := rfl
@[simp] theorem clearChanged_log (s : State) : (clearChanged s).log = s.log := rfl
@[simp] theorem clearChanged_answer (s : State) : (clearChanged s).answer = s.answer := rfl
@[simp] theorem clearChanged_script (s : State) : (clearChanged s).script = s.script := rfl
@[simp] theorem clearChanged_resets (s : State) : (clearChanged s).resets = s.resets := rfl

/-! ### `armWait` -/

@[simp] theorem armWait_state (s : State) : (armWait s).state = s.state := rfl
@[simp] theorem armWait_dir (s : State) : (armWait s).dir = s.dir := rfl
@[simp] theorem armWait_curveId (s : State) : (armWait s).curveId = s.curveId := rfl
@[simp] theorem armWait_toggle (s : State) : (armWait s).toggle = s.toggle := rfl
@[simp] theorem armWait_waitingForStatus (s : State) : (armWait s).waitingForStatus = true := rfl
@[simp] theorem armWait_changedMode (s : State) : (armWait s).changedMode = s.changedMode := rfl
@[simp] theorem armWait_bufferResponse (s : State) : (armWait s).bufferResponse = s.bufferResponse := rfl
@[simp] theorem armWait_expectedStatus (s : State) : (armWait s).expectedStatus = s.expectedStatus := rfl
@[simp] theorem armWait_nextModeStatus (s : State) : (armWait s).nextModeStatus = s.nextModeStatus := rfl
@[simp] theorem armWait_timeoutCtr (s : State) : (armWait s).timeoutCtr = 0 := rfl
@[simp] theorem armWait_desc (s : State) : (armWait s).desc = s.desc := rfl
@[simp] theorem armWait_sp (s : State) : (armWait s).sp = s.sp := rfl
@[simp] theorem armWait_spCount (s : State) : (armWait s).spCount = s.spCount := rfl
@[simp] theorem armWait_txSrc (s : State) : (armWait s).txSrc = s.txSrc := rfl
@[simp] theorem armWait_txPos (s : State) : (armWait s).txPos = s.txPos := rfl
@[simp] theorem armWait_txLen (s : State) : (armWait s).txLen = s.txLen := rfl
@[simp] theorem armWait_rxTarget (s : State) : (armWait s).rxTarget = s.rxTarget := rfl
@[simp] theorem armWait_rxCount (s : State) : (armWait s).rxCount = s.rxCount := rfl
@[simp] theorem armWait_rxCap (s : State) : (armWait s).rxCap = s.rxCap := rfl
@[simp] theorem armWait_rxPending (s : State) : (armWait s).rxPending = s.rxPending := rfl
@[simp] theorem armWait_rxPendingValid (s : State) : (armWait s).rxPendingValid = s.rxPendingValid := rfl
@[simp] theorem armWait_xferState (s : State) : (armWait s).xferState = s.xferState := rfl
@[simp] theorem armWait_result (s : State) : (armWait s).result = s.result := rfl
@[simp] theorem armWait_message (s : State) : (armWait s).message = s.message := rfl
@[simp] theorem armWait_failReason (s : State) : (armWait s).failReason = s.failReason := rfl
@[simp] theorem armWait_errorCode (s : State) : (armWait s).errorCode = s.errorCode := rfl
@[simp] theorem armWait_underflowFlag (s : State) : (armWait s).underflowFlag = s.underflowFlag := rfl
@[simp] theorem armWait_host (s : State) : (armWait s).host = s.host := rfl
@[simp] theorem armWait_lock (s : State) : (armWait s).lock = s.lock := rfl
@[simp] theorem armWait_profile (s : State) : (armWait s).profile = s.profile := rfl
@[simp] theorem armWait_profileCount (s : State) : (armWait s).profileCount = s.profileCount := rfl
@[simp] theorem armWait_params (s : State) : (armWait s).params = s.params := rfl
@[simp] theorem armWait_log (s : State) : (armWait s).log = s.log := rfl
@[simp] theorem armWait_answer (s : State) : (armWait s).answer = s.answer := rfl
@[simp] theorem armWait_script (s : State) : (armWait s).script = s.script := rfl
@[simp] theorem armWait_resets (s : State) : (armWait s).resets = s.resets := rfl

/-! ### `packDesc` -/

@[simp] theorem packDesc_state (f : Fields) (s : State) : (packDesc f s).state = s.state := rfl
@[simp] theorem packDesc_dir (f : Fields) (s : State) : (packDesc f s).dir = s.dir := rfl
@[simp] theorem packDesc_curveId (f : Fields) (s : State) : (packDesc f s).curveId = s.curveId := rfl
@[simp] theorem packDesc_toggle (f : Fields) (s : State) : (packDesc f s).toggle = s.toggle := rfl
@[simp] theorem packDesc_waitingForStatus (f : Fields) (s : State) : (packDesc f s).waitingForStatus = s.waitingForStatus := rfl
@[simp] theorem packDesc_changedMode (f : Fields) (s : State) : (packDesc f s).changedMode = s.changedMode := rfl
@[simp] theorem packDesc_bufferResponse (f : Fields) (s : State) : (packDesc f s).bufferResponse = s.bufferResponse := rfl
@[simp] theorem packDesc_expectedStatus (f : Fields) (s : State) : (packDesc f s).expectedStatus = s.expectedStatus := rfl
@[simp] theorem packDesc_nextModeStatus (f : Fields) (s : State) : (packDesc f s).nextModeStatus = s.nextModeStatus := rfl
@[simp] theorem packDesc_timeoutCtr (f : Fields) (s : State) : (packDesc f s).timeoutCtr = s.timeoutCtr := rfl
@[simp] theorem packDesc_desc (f : Fields) (s : State) : (packDesc f s).desc = writeBytes s.desc 0 (packed f) := by
  simp only [packDesc]
@[simp] theorem packDesc_sp (f : Fields) (s : State) : (packDesc f s).sp = s.sp := rfl
@[simp] theorem packDesc_spCount (f : Fields) (s : State) : (packDesc f s).spCount = s.spCount := rfl
@[simp] theorem packDesc_txSrc (f : Fields) (s : State) : (packDesc f s).txSrc = s.txSrc := rfl
@[simp] theorem packDesc_txPos (f : Fields) (s : State) : (packDesc f s).txPos = s.txPos := rfl
@[simp] theorem packDesc_txLen (f : Fields) (s : State) : (packDesc f s).txLen = s.txLen := rfl
@[simp] theorem packDesc_rxTarget (f : Fields) (s : State) : (packDesc f s).rxTarget = s.rxTarget := rfl
@[simp] theorem packDesc_rxCount (f : Fields) (s : State) : (packDesc f s).rxCount = s.rxCount := rfl
@[simp] theorem packDesc_rxCap (f : Fields) (s : State) : (packDesc f s).rxCap = s.rxCap := rfl
@[simp] theorem packDesc_rxPending (f : Fields) (s : State) : (packDesc f s).rxPending = s.rxPending := rfl
@[simp] theorem packDesc_rxPendingValid (f : Fields) (s : State) : (packDesc f s).rxPendingValid = s.rxPendingValid := rfl
@[simp] theorem packDesc_xferState (f : Fields) (s : State) : (packDesc f s).xferState = s.xferState := rfl
@[simp] theorem packDesc_result (f : Fields) (s : State) : (packDesc f s).result = s.result := rfl
@[simp] theorem packDesc_message (f : Fields) (s : State) : (packDesc f s).message = s.message := rfl
@[simp] theorem packDesc_failReason (f : Fields) (s : State) : (packDesc f s).failReason = s.failReason := rfl
@[simp] theorem packDesc_errorCode (f : Fields) (s : State) : (packDesc f s).errorCode = s.errorCode := rfl
@[simp] theorem packDesc_underflowFlag (f : Fields) (s : State) : (packDesc f s).underflowFlag = s.underflowFlag := rfl
@[simp] theorem packDesc_host (f : Fields) (s : State) : (packDesc f s).host = s.host := rfl
@[simp] theorem packDesc_lock (f : Fields) (s : State) : (packDesc f s).lock = s.lock := rfl
@[simp] theorem packDesc_profile (f : Fields) (s : State) : (packDesc f s).profile = s.profile := rfl
@[simp] theorem packDesc_profileCount (f : Fields) (s : State) : (packDesc f s).profileCount = s.profileCount := rfl
@[simp] theorem packDesc_params (f : Fields) (s : State) : (packDesc f s).params = s.params := rfl
@[simp] theorem packDesc_log (f : Fields) (s : State) : (packDesc f s).log = s.log := rfl
@[simp] theorem packDesc_answer (f : Fields) (s : State) : (packDesc f s).answer = s.answer := rfl
@[simp] theorem packDesc_script (f : Fields) (s : State) : (packDesc f s).script = s.script := rfl
@[simp] theorem packDesc_resets (f : Fields) (s : State) : (packDesc f s).resets = s.resets := rfl

/-! ### `loadWrite` -/

@[simp] theorem loadWrite_state (id count : Half) (s : State) : (loadWrite id count s).state = s.state := rfl
@[simp] theorem loadWrite_dir (id count : Half) (s : State) : (loadWrite id count s).dir = .write := rfl
@[simp] theorem loadWrite_curveId (id count : Half) (s : State) : (loadWrite id count s).curveId = id := rfl
@[simp] theorem loadWrite_toggle (id count : Half) (s : State) : (loadWrite id count s).toggle = s.toggle := rfl
@[simp] theorem loadWrite_waitingForStatus (id count : Half) (s : State) : (loadWrite id count s).waitingForStatus = s.waitingForStatus := rfl
@[simp] theorem loadWrite_changedMode (id count : Half) (s : State) : (loadWrite id count s).changedMode = s.changedMode := rfl
@[simp] theorem loadWrite_bufferResponse (id count : Half) (s : State) : (loadWrite id count s).bufferResponse = s.bufferResponse := rfl
@[simp] theorem loadWrite_expectedStatus (id count : Half) (s : State) : (loadWrite id count s).expectedStatus = s.expectedStatus := rfl
@[simp] theorem loadWrite_nextModeStatus (id count : Half) (s : State) : (loadWrite id count s).nextModeStatus = s.nextModeStatus := rfl
@[simp] theorem loadWrite_timeoutCtr (id count : Half) (s : State) : (loadWrite id count s).timeoutCtr = s.timeoutCtr := rfl
@[simp] theorem loadWrite_desc (id count : Half) (s : State) : (loadWrite id count s).desc = writeBytes s.desc 0 (packed (requestFields id count s)) := by
  simp only [loadWrite, packDesc]
@[simp] theorem loadWrite_sp (id count : Half) (s : State) : (loadWrite id count s).sp = s.sp := rfl
@[simp] theorem loadWrite_spCount (id count : Half) (s : State) : (loadWrite id count s).spCount = count := rfl
@[simp] theorem loadWrite_txSrc (id count : Half) (s : State) : (loadWrite id count s).txSrc = s.txSrc := rfl
@[simp] theorem loadWrite_txPos (id count : Half) (s : State) : (loadWrite id count s).txPos = s.txPos := rfl
@[simp] theorem loadWrite_txLen (id count : Half) (s : State) : (loadWrite id count s).txLen = s.txLen := rfl
@[simp] theorem loadWrite_rxTarget (id count : Half) (s : State) : (loadWrite id count s).rxTarget = s.rxTarget := rfl
@[simp] theorem loadWrite_rxCount (id count : Half) (s : State) : (loadWrite id count s).rxCount = s.rxCount := rfl
@[simp] theorem loadWrite_rxCap (id count : Half) (s : State) : (loadWrite id count s).rxCap = s.rxCap := rfl
@[simp] theorem loadWrite_rxPending (id count : Half) (s : State) : (loadWrite id count s).rxPending = s.rxPending := rfl
@[simp] theorem loadWrite_rxPendingValid (id count : Half) (s : State) : (loadWrite id count s).rxPendingValid = s.rxPendingValid := rfl
@[simp] theorem loadWrite_xferState (id count : Half) (s : State) : (loadWrite id count s).xferState = s.xferState := rfl
@[simp] theorem loadWrite_result (id count : Half) (s : State) : (loadWrite id count s).result = s.result := rfl
@[simp] theorem loadWrite_message (id count : Half) (s : State) : (loadWrite id count s).message = s.message := rfl
@[simp] theorem loadWrite_failReason (id count : Half) (s : State) : (loadWrite id count s).failReason = s.failReason := rfl
@[simp] theorem loadWrite_errorCode (id count : Half) (s : State) : (loadWrite id count s).errorCode = s.errorCode := rfl
@[simp] theorem loadWrite_underflowFlag (id count : Half) (s : State) : (loadWrite id count s).underflowFlag = s.underflowFlag := rfl
@[simp] theorem loadWrite_host (id count : Half) (s : State) : (loadWrite id count s).host = s.host := rfl
@[simp] theorem loadWrite_lock (id count : Half) (s : State) : (loadWrite id count s).lock = s.lock := rfl
@[simp] theorem loadWrite_profile (id count : Half) (s : State) : (loadWrite id count s).profile = s.profile := rfl
@[simp] theorem loadWrite_profileCount (id count : Half) (s : State) : (loadWrite id count s).profileCount = s.profileCount := rfl
@[simp] theorem loadWrite_params (id count : Half) (s : State) : (loadWrite id count s).params = s.params := rfl
@[simp] theorem loadWrite_log (id count : Half) (s : State) : (loadWrite id count s).log = s.log := rfl
@[simp] theorem loadWrite_answer (id count : Half) (s : State) : (loadWrite id count s).answer = s.answer := rfl
@[simp] theorem loadWrite_script (id count : Half) (s : State) : (loadWrite id count s).script = s.script := rfl
@[simp] theorem loadWrite_resets (id count : Half) (s : State) : (loadWrite id count s).resets = s.resets := rfl

/-! ### `loadRead` -/

@[simp] theorem loadRead_state (id : Half) (s : State) : (loadRead id s).state = s.state := rfl
@[simp] theorem loadRead_dir (id : Half) (s : State) : (loadRead id s).dir = .read := rfl
@[simp] theorem loadRead_curveId (id : Half) (s : State) : (loadRead id s).curveId = id := rfl
@[simp] theorem loadRead_toggle (id : Half) (s : State) : (loadRead id s).toggle = s.toggle := rfl
@[simp] theorem loadRead_waitingForStatus (id : Half) (s : State) : (loadRead id s).waitingForStatus = s.waitingForStatus := rfl
@[simp] theorem loadRead_changedMode (id : Half) (s : State) : (loadRead id s).changedMode = s.changedMode := rfl
@[simp] theorem loadRead_bufferResponse (id : Half) (s : State) : (loadRead id s).bufferResponse = s.bufferResponse := rfl
@[simp] theorem loadRead_expectedStatus (id : Half) (s : State) : (loadRead id s).expectedStatus = s.expectedStatus := rfl
@[simp] theorem loadRead_nextModeStatus (id : Half) (s : State) : (loadRead id s).nextModeStatus = s.nextModeStatus := rfl
@[simp] theorem loadRead_timeoutCtr (id : Half) (s : State) : (loadRead id s).timeoutCtr = s.timeoutCtr := rfl
@[simp] theorem loadRead_desc (id : Half) (s : State) : (loadRead id s).desc = writeBytes s.desc 0 (List.replicate descBytes 0) := by
  simp only [loadRead]
@[simp] theorem loadRead_sp (id : Half) (s : State) : (loadRead id s).sp = s.sp := rfl
@[simp] theorem loadRead_spCount (id : Half) (s : State) : (loadRead id s).spCount = 0 := rfl
@[simp] theorem loadRead_txSrc (id : Half) (s : State) : (loadRead id s).txSrc = s.txSrc := rfl
@[simp] theorem loadRead_txPos (id : Half) (s : State) : (loadRead id s).txPos = s.txPos := rfl
@[simp] theorem loadRead_txLen (id : Half) (s : State) : (loadRead id s).txLen = s.txLen := rfl
@[simp] theorem loadRead_rxTarget (id : Half) (s : State) : (loadRead id s).rxTarget = s.rxTarget := rfl
@[simp] theorem loadRead_rxCount (id : Half) (s : State) : (loadRead id s).rxCount = s.rxCount := rfl
@[simp] theorem loadRead_rxCap (id : Half) (s : State) : (loadRead id s).rxCap = s.rxCap := rfl
@[simp] theorem loadRead_rxPending (id : Half) (s : State) : (loadRead id s).rxPending = s.rxPending := rfl
@[simp] theorem loadRead_rxPendingValid (id : Half) (s : State) : (loadRead id s).rxPendingValid = s.rxPendingValid := rfl
@[simp] theorem loadRead_xferState (id : Half) (s : State) : (loadRead id s).xferState = s.xferState := rfl
@[simp] theorem loadRead_result (id : Half) (s : State) : (loadRead id s).result = s.result := rfl
@[simp] theorem loadRead_message (id : Half) (s : State) : (loadRead id s).message = s.message := rfl
@[simp] theorem loadRead_failReason (id : Half) (s : State) : (loadRead id s).failReason = s.failReason := rfl
@[simp] theorem loadRead_errorCode (id : Half) (s : State) : (loadRead id s).errorCode = s.errorCode := rfl
@[simp] theorem loadRead_underflowFlag (id : Half) (s : State) : (loadRead id s).underflowFlag = s.underflowFlag := rfl
@[simp] theorem loadRead_host (id : Half) (s : State) : (loadRead id s).host = s.host := rfl
@[simp] theorem loadRead_lock (id : Half) (s : State) : (loadRead id s).lock = s.lock := rfl
@[simp] theorem loadRead_profile (id : Half) (s : State) : (loadRead id s).profile = s.profile := rfl
@[simp] theorem loadRead_profileCount (id : Half) (s : State) : (loadRead id s).profileCount = s.profileCount := rfl
@[simp] theorem loadRead_params (id : Half) (s : State) : (loadRead id s).params = s.params := rfl
@[simp] theorem loadRead_log (id : Half) (s : State) : (loadRead id s).log = s.log := rfl
@[simp] theorem loadRead_answer (id : Half) (s : State) : (loadRead id s).answer = s.answer := rfl
@[simp] theorem loadRead_script (id : Half) (s : State) : (loadRead id s).script = s.script := rfl
@[simp] theorem loadRead_resets (id : Half) (s : State) : (loadRead id s).resets = s.resets := rfl

/-! ### `loadTxDesc` -/

@[simp] theorem loadTxDesc_state (s : State) : (loadTxDesc s).state = s.state := rfl
@[simp] theorem loadTxDesc_dir (s : State) : (loadTxDesc s).dir = s.dir := rfl
@[simp] theorem loadTxDesc_curveId (s : State) : (loadTxDesc s).curveId = s.curveId := rfl
@[simp] theorem loadTxDesc_toggle (s : State) : (loadTxDesc s).toggle = s.toggle := rfl
@[simp] theorem loadTxDesc_waitingForStatus (s : State) : (loadTxDesc s).waitingForStatus = s.waitingForStatus := rfl
@[simp] theorem loadTxDesc_changedMode (s : State) : (loadTxDesc s).changedMode = s.changedMode := rfl
@[simp] theorem loadTxDesc_bufferResponse (s : State) : (loadTxDesc s).bufferResponse = s.bufferResponse := rfl
@[simp] theorem loadTxDesc_expectedStatus (s : State) : (loadTxDesc s).expectedStatus = s.expectedStatus := rfl
@[simp] theorem loadTxDesc_nextModeStatus (s : State) : (loadTxDesc s).nextModeStatus = s.nextModeStatus := rfl
@[simp] theorem loadTxDesc_timeoutCtr (s : State) : (loadTxDesc s).timeoutCtr = s.timeoutCtr := rfl
@[simp] theorem loadTxDesc_desc (s : State) : (loadTxDesc s).desc = s.desc := rfl
@[simp] theorem loadTxDesc_sp (s : State) : (loadTxDesc s).sp = s.sp := rfl
@[simp] theorem loadTxDesc_spCount (s : State) : (loadTxDesc s).spCount = s.spCount := rfl
@[simp] theorem loadTxDesc_txSrc (s : State) : (loadTxDesc s).txSrc = .fromDesc := rfl
@[simp] theorem loadTxDesc_txPos (s : State) : (loadTxDesc s).txPos = 0 := rfl
@[simp] theorem loadTxDesc_txLen (s : State) : (loadTxDesc s).txLen = 18 := rfl
@[simp] theorem loadTxDesc_rxTarget (s : State) : (loadTxDesc s).rxTarget = s.rxTarget := rfl
@[simp] theorem loadTxDesc_rxCount (s : State) : (loadTxDesc s).rxCount = s.rxCount := rfl
@[simp] theorem loadTxDesc_rxCap (s : State) : (loadTxDesc s).rxCap = s.rxCap := rfl
@[simp] theorem loadTxDesc_rxPending (s : State) : (loadTxDesc s).rxPending = s.rxPending := rfl
@[simp] theorem loadTxDesc_rxPendingValid (s : State) : (loadTxDesc s).rxPendingValid = s.rxPendingValid := rfl
@[simp] theorem loadTxDesc_xferState (s : State) : (loadTxDesc s).xferState = s.xferState := rfl
@[simp] theorem loadTxDesc_result (s : State) : (loadTxDesc s).result = s.result := rfl
@[simp] theorem loadTxDesc_message (s : State) : (loadTxDesc s).message = s.message := rfl
@[simp] theorem loadTxDesc_failReason (s : State) : (loadTxDesc s).failReason = s.failReason := rfl
@[simp] theorem loadTxDesc_errorCode (s : State) : (loadTxDesc s).errorCode = s.errorCode := rfl
@[simp] theorem loadTxDesc_underflowFlag (s : State) : (loadTxDesc s).underflowFlag = s.underflowFlag := rfl
@[simp] theorem loadTxDesc_host (s : State) : (loadTxDesc s).host = s.host := rfl
@[simp] theorem loadTxDesc_lock (s : State) : (loadTxDesc s).lock = s.lock := rfl
@[simp] theorem loadTxDesc_profile (s : State) : (loadTxDesc s).profile = s.profile := rfl
@[simp] theorem loadTxDesc_profileCount (s : State) : (loadTxDesc s).profileCount = s.profileCount := rfl
@[simp] theorem loadTxDesc_params (s : State) : (loadTxDesc s).params = s.params := rfl
@[simp] theorem loadTxDesc_log (s : State) : (loadTxDesc s).log = s.log := rfl
@[simp] theorem loadTxDesc_answer (s : State) : (loadTxDesc s).answer = s.answer := rfl
@[simp] theorem loadTxDesc_script (s : State) : (loadTxDesc s).script = s.script := rfl
@[simp] theorem loadTxDesc_resets (s : State) : (loadTxDesc s).resets = s.resets := rfl

/-! ### `loadTxSp` -/

@[simp] theorem loadTxSp_state (s : State) : (loadTxSp s).state = s.state := rfl
@[simp] theorem loadTxSp_dir (s : State) : (loadTxSp s).dir = s.dir := rfl
@[simp] theorem loadTxSp_curveId (s : State) : (loadTxSp s).curveId = s.curveId := rfl
@[simp] theorem loadTxSp_toggle (s : State) : (loadTxSp s).toggle = s.toggle := rfl
@[simp] theorem loadTxSp_waitingForStatus (s : State) : (loadTxSp s).waitingForStatus = s.waitingForStatus := rfl
@[simp] theorem loadTxSp_changedMode (s : State) : (loadTxSp s).changedMode = s.changedMode := rfl
@[simp] theorem loadTxSp_bufferResponse (s : State) : (loadTxSp s).bufferResponse = s.bufferResponse := rfl
@[simp] theorem loadTxSp_expectedStatus (s : State) : (loadTxSp s).expectedStatus = s.expectedStatus := rfl
@[simp] theorem loadTxSp_nextModeStatus (s : State) : (loadTxSp s).nextModeStatus = s.nextModeStatus := rfl
@[simp] theorem loadTxSp_timeoutCtr (s : State) : (loadTxSp s).timeoutCtr = s.timeoutCtr := rfl
@[simp] theorem loadTxSp_desc (s : State) : (loadTxSp s).desc = s.desc := rfl
@[simp] theorem loadTxSp_sp (s : State) : (loadTxSp s).sp = s.sp := rfl
@[simp] theorem loadTxSp_spCount (s : State) : (loadTxSp s).spCount = s.spCount := rfl
@[simp] theorem loadTxSp_txSrc (s : State) : (loadTxSp s).txSrc = .fromSp := rfl
@[simp] theorem loadTxSp_txPos (s : State) : (loadTxSp s).txPos = 0 := rfl
@[simp] theorem loadTxSp_txLen (s : State) : (loadTxSp s).txLen = s.spCount := rfl
@[simp] theorem loadTxSp_rxTarget (s : State) : (loadTxSp s).rxTarget = s.rxTarget := rfl
@[simp] theorem loadTxSp_rxCount (s : State) : (loadTxSp s).rxCount = s.rxCount := rfl
@[simp] theorem loadTxSp_rxCap (s : State) : (loadTxSp s).rxCap = s.rxCap := rfl
@[simp] theorem loadTxSp_rxPending (s : State) : (loadTxSp s).rxPending = s.rxPending := rfl
@[simp] theorem loadTxSp_rxPendingValid (s : State) : (loadTxSp s).rxPendingValid = s.rxPendingValid := rfl
@[simp] theorem loadTxSp_xferState (s : State) : (loadTxSp s).xferState = s.xferState := rfl
@[simp] theorem loadTxSp_result (s : State) : (loadTxSp s).result = s.result := rfl
@[simp] theorem loadTxSp_message (s : State) : (loadTxSp s).message = s.message := rfl
@[simp] theorem loadTxSp_failReason (s : State) : (loadTxSp s).failReason = s.failReason := rfl
@[simp] theorem loadTxSp_errorCode (s : State) : (loadTxSp s).errorCode = s.errorCode := rfl
@[simp] theorem loadTxSp_underflowFlag (s : State) : (loadTxSp s).underflowFlag = s.underflowFlag := rfl
@[simp] theorem loadTxSp_host (s : State) : (loadTxSp s).host = s.host := rfl
@[simp] theorem loadTxSp_lock (s : State) : (loadTxSp s).lock = s.lock := rfl
@[simp] theorem loadTxSp_profile (s : State) : (loadTxSp s).profile = s.profile := rfl
@[simp] theorem loadTxSp_profileCount (s : State) : (loadTxSp s).profileCount = s.profileCount := rfl
@[simp] theorem loadTxSp_params (s : State) : (loadTxSp s).params = s.params := rfl
@[simp] theorem loadTxSp_log (s : State) : (loadTxSp s).log = s.log := rfl
@[simp] theorem loadTxSp_answer (s : State) : (loadTxSp s).answer = s.answer := rfl
@[simp] theorem loadTxSp_script (s : State) : (loadTxSp s).script = s.script := rfl
@[simp] theorem loadTxSp_resets (s : State) : (loadTxSp s).resets = s.resets := rfl

/-! ### `armRxDesc` -/

@[simp] theorem armRxDesc_state (s : State) : (armRxDesc s).state = s.state := rfl
@[simp] theorem armRxDesc_dir (s : State) : (armRxDesc s).dir = s.dir := rfl
@[simp] theorem armRxDesc_curveId (s : State) : (armRxDesc s).curveId = s.curveId := rfl
@[simp] theorem armRxDesc_toggle (s : State) : (armRxDesc s).toggle = s.toggle := rfl
@[simp] theorem armRxDesc_waitingForStatus (s : State) : (armRxDesc s).waitingForStatus = s.waitingForStatus := rfl
@[simp] theorem armRxDesc_changedMode (s : State) : (armRxDesc s).changedMode = s.changedMode := rfl
@[simp] theorem armRxDesc_bufferResponse (s : State) : (armRxDesc s).bufferResponse = s.bufferResponse := rfl
@[simp] theorem armRxDesc_expectedStatus (s : State) : (armRxDesc s).expectedStatus = s.expectedStatus := rfl
@[simp] theorem armRxDesc_nextModeStatus (s : State) : (armRxDesc s).nextModeStatus = s.nextModeStatus := rfl
@[simp] theorem armRxDesc_timeoutCtr (s : State) : (armRxDesc s).timeoutCtr = s.timeoutCtr := rfl
@[simp] theorem armRxDesc_desc (s : State) : (armRxDesc s).desc = s.desc := rfl
@[simp] theorem armRxDesc_sp (s : State) : (armRxDesc s).sp = s.sp := rfl
@[simp] theorem armRxDesc_spCount (s : State) : (armRxDesc s).spCount = s.spCount := rfl
@[simp] theorem armRxDesc_txSrc (s : State) : (armRxDesc s).txSrc = s.txSrc := rfl
@[simp] theorem armRxDesc_txPos (s : State) : (armRxDesc s).txPos = s.txPos := rfl
@[simp] theorem armRxDesc_txLen (s : State) : (armRxDesc s).txLen = s.txLen := rfl
@[simp] theorem armRxDesc_rxTarget (s : State) : (armRxDesc s).rxTarget = .toDesc := rfl
@[simp] theorem armRxDesc_rxCount (s : State) : (armRxDesc s).rxCount = 0 := rfl
@[simp] theorem armRxDesc_rxCap (s : State) : (armRxDesc s).rxCap = 18 := rfl
@[simp] theorem armRxDesc_rxPending (s : State) : (armRxDesc s).rxPending = s.rxPending := rfl
@[simp] theorem armRxDesc_rxPendingValid (s : State) : (armRxDesc s).rxPendingValid = s.rxPendingValid := rfl
@[simp] theorem armRxDesc_xferState (s : State) : (armRxDesc s).xferState = s.xferState := rfl
@[simp] theorem armRxDesc_result (s : State) : (armRxDesc s).result = s.result := rfl
@[simp] theorem armRxDesc_message (s : State) : (armRxDesc s).message = s.message := rfl
@[simp] theorem armRxDesc_failReason (s : State) : (armRxDesc s).failReason = s.failReason := rfl
@[simp] theorem armRxDesc_errorCode (s : State) : (armRxDesc s).errorCode = s.errorCode := rfl
@[simp] theorem armRxDesc_underflowFlag (s : State) : (armRxDesc s).underflowFlag = s.underflowFlag := rfl
@[simp] theorem armRxDesc_host (s : State) : (armRxDesc s).host = s.host := rfl
@[simp] theorem armRxDesc_lock (s : State) : (armRxDesc s).lock = s.lock := rfl
@[simp] theorem armRxDesc_profile (s : State) : (armRxDesc s).profile = s.profile := rfl
@[simp] theorem armRxDesc_profileCount (s : State) : (armRxDesc s).profileCount = s.profileCount := rfl
@[simp] theorem armRxDesc_params (s : State) : (armRxDesc s).params = s.params := rfl
@[simp] theorem armRxDesc_log (s : State) : (armRxDesc s).log = s.log := rfl
@[simp] theorem armRxDesc_answer (s : State) : (armRxDesc s).answer = s.answer := rfl
@[simp] theorem armRxDesc_script (s : State) : (armRxDesc s).script = s.script := rfl
@[simp] theorem armRxDesc_resets (s : State) : (armRxDesc s).resets = s.resets := rfl

/-! ### `armRxSp` -/

@[simp] theorem armRxSp_state (s : State) : (armRxSp s).state = s.state := rfl
@[simp] theorem armRxSp_dir (s : State) : (armRxSp s).dir = s.dir := rfl
@[simp] theorem armRxSp_curveId (s : State) : (armRxSp s).curveId = s.curveId := rfl
@[simp] theorem armRxSp_toggle (s : State) : (armRxSp s).toggle = s.toggle := rfl
@[simp] theorem armRxSp_waitingForStatus (s : State) : (armRxSp s).waitingForStatus = s.waitingForStatus := rfl
@[simp] theorem armRxSp_changedMode (s : State) : (armRxSp s).changedMode = s.changedMode := rfl
@[simp] theorem armRxSp_bufferResponse (s : State) : (armRxSp s).bufferResponse = s.bufferResponse := rfl
@[simp] theorem armRxSp_expectedStatus (s : State) : (armRxSp s).expectedStatus = s.expectedStatus := rfl
@[simp] theorem armRxSp_nextModeStatus (s : State) : (armRxSp s).nextModeStatus = s.nextModeStatus := rfl
@[simp] theorem armRxSp_timeoutCtr (s : State) : (armRxSp s).timeoutCtr = s.timeoutCtr := rfl
@[simp] theorem armRxSp_desc (s : State) : (armRxSp s).desc = s.desc := rfl
@[simp] theorem armRxSp_sp (s : State) : (armRxSp s).sp = s.sp := rfl
@[simp] theorem armRxSp_spCount (s : State) : (armRxSp s).spCount = s.spCount := rfl
@[simp] theorem armRxSp_txSrc (s : State) : (armRxSp s).txSrc = s.txSrc := rfl
@[simp] theorem armRxSp_txPos (s : State) : (armRxSp s).txPos = s.txPos := rfl
@[simp] theorem armRxSp_txLen (s : State) : (armRxSp s).txLen = s.txLen := rfl
@[simp] theorem armRxSp_rxTarget (s : State) : (armRxSp s).rxTarget = .toPending := rfl
@[simp] theorem armRxSp_rxCount (s : State) : (armRxSp s).rxCount = s.rxCount := rfl
@[simp] theorem armRxSp_rxCap (s : State) : (armRxSp s).rxCap = s.rxCap := rfl
@[simp] theorem armRxSp_rxPending (s : State) : (armRxSp s).rxPending = s.rxPending := rfl
@[simp] theorem armRxSp_rxPendingValid (s : State) : (armRxSp s).rxPendingValid = false := rfl
@[simp] theorem armRxSp_xferState (s : State) : (armRxSp s).xferState = s.xferState := rfl
@[simp] theorem armRxSp_result (s : State) : (armRxSp s).result = s.result := rfl
@[simp] theorem armRxSp_message (s : State) : (armRxSp s).message = s.message := rfl
@[simp] theorem armRxSp_failReason (s : State) : (armRxSp s).failReason = s.failReason := rfl
@[simp] theorem armRxSp_errorCode (s : State) : (armRxSp s).errorCode = s.errorCode := rfl
@[simp] theorem armRxSp_underflowFlag (s : State) : (armRxSp s).underflowFlag = s.underflowFlag := rfl
@[simp] theorem armRxSp_host (s : State) : (armRxSp s).host = s.host := rfl
@[simp] theorem armRxSp_lock (s : State) : (armRxSp s).lock = s.lock := rfl
@[simp] theorem armRxSp_profile (s : State) : (armRxSp s).profile = s.profile := rfl
@[simp] theorem armRxSp_profileCount (s : State) : (armRxSp s).profileCount = s.profileCount := rfl
@[simp] theorem armRxSp_params (s : State) : (armRxSp s).params = s.params := rfl
@[simp] theorem armRxSp_log (s : State) : (armRxSp s).log = s.log := rfl
@[simp] theorem armRxSp_answer (s : State) : (armRxSp s).answer = s.answer := rfl
@[simp] theorem armRxSp_script (s : State) : (armRxSp s).script = s.script := rfl
@[simp] theorem armRxSp_resets (s : State) : (armRxSp s).resets = s.resets := rfl

/-! ### `setLock` -/

@[simp] theorem setLock_state (l : Lock) (s : State) : (setLock l s).state = s.state := rfl
@[simp] theorem setLock_dir (l : Lock) (s : State) : (setLock l s).dir = s.dir := rfl
@[simp] theorem setLock_curveId (l : Lock) (s : State) : (setLock l s).curveId = s.curveId := rfl
@[simp] theorem setLock_toggle (l : Lock) (s : State) : (setLock l s).toggle = s.toggle := rfl
@[simp] theorem setLock_waitingForStatus (l : Lock) (s : State) : (setLock l s).waitingForStatus = s.waitingForStatus := rfl
@[simp] theorem setLock_changedMode (l : Lock) (s : State) : (setLock l s).changedMode = s.changedMode := rfl
@[simp] theorem setLock_bufferResponse (l : Lock) (s : State) : (setLock l s).bufferResponse = s.bufferResponse := rfl
@[simp] theorem setLock_expectedStatus (l : Lock) (s : State) : (setLock l s).expectedStatus = s.expectedStatus := rfl
@[simp] theorem setLock_nextModeStatus (l : Lock) (s : State) : (setLock l s).nextModeStatus = s.nextModeStatus := rfl
@[simp] theorem setLock_timeoutCtr (l : Lock) (s : State) : (setLock l s).timeoutCtr = s.timeoutCtr := rfl
@[simp] theorem setLock_desc (l : Lock) (s : State) : (setLock l s).desc = s.desc := rfl
@[simp] theorem setLock_sp (l : Lock) (s : State) : (setLock l s).sp = s.sp := rfl
@[simp] theorem setLock_spCount (l : Lock) (s : State) : (setLock l s).spCount = s.spCount := rfl
@[simp] theorem setLock_txSrc (l : Lock) (s : State) : (setLock l s).txSrc = s.txSrc := rfl
@[simp] theorem setLock_txPos (l : Lock) (s : State) : (setLock l s).txPos = s.txPos := rfl
@[simp] theorem setLock_txLen (l : Lock) (s : State) : (setLock l s).txLen = s.txLen := rfl
@[simp] theorem setLock_rxTarget (l : Lock) (s : State) : (setLock l s).rxTarget = s.rxTarget := rfl
@[simp] theorem setLock_rxCount (l : Lock) (s : State) : (setLock l s).rxCount = s.rxCount := rfl
@[simp] theorem setLock_rxCap (l : Lock) (s : State) : (setLock l s).rxCap = s.rxCap := rfl
@[simp] theorem setLock_rxPending (l : Lock) (s : State) : (setLock l s).rxPending = s.rxPending := rfl
@[simp] theorem setLock_rxPendingValid (l : Lock) (s : State) : (setLock l s).rxPendingValid = s.rxPendingValid := rfl
@[simp] theorem setLock_xferState (l : Lock) (s : State) : (setLock l s).xferState = s.xferState := rfl
@[simp] theorem setLock_result (l : Lock) (s : State) : (setLock l s).result = s.result := rfl
@[simp] theorem setLock_message (l : Lock) (s : State) : (setLock l s).message = s.message := rfl
@[simp] theorem setLock_failReason (l : Lock) (s : State) : (setLock l s).failReason = s.failReason := rfl
@[simp] theorem setLock_errorCode (l : Lock) (s : State) : (setLock l s).errorCode = s.errorCode := rfl
@[simp] theorem setLock_underflowFlag (l : Lock) (s : State) : (setLock l s).underflowFlag = s.underflowFlag := rfl
@[simp] theorem setLock_host (l : Lock) (s : State) : (setLock l s).host = s.host := rfl
@[simp] theorem setLock_lock (l : Lock) (s : State) : (setLock l s).lock = l := rfl
@[simp] theorem setLock_profile (l : Lock) (s : State) : (setLock l s).profile = s.profile := rfl
@[simp] theorem setLock_profileCount (l : Lock) (s : State) : (setLock l s).profileCount = s.profileCount := rfl
@[simp] theorem setLock_params (l : Lock) (s : State) : (setLock l s).params = s.params := rfl
@[simp] theorem setLock_log (l : Lock) (s : State) : (setLock l s).log = s.log := rfl
@[simp] theorem setLock_answer (l : Lock) (s : State) : (setLock l s).answer = s.answer := rfl
@[simp] theorem setLock_script (l : Lock) (s : State) : (setLock l s).script = s.script := rfl
@[simp] theorem setLock_resets (l : Lock) (s : State) : (setLock l s).resets = s.resets := rfl

/-! ### `reportSuccess` -/

@[simp] theorem reportSuccess_state (s : State) : (reportSuccess s).state = s.state := rfl
@[simp] theorem reportSuccess_dir (s : State) : (reportSuccess s).dir = s.dir := rfl
@[simp] theorem reportSuccess_curveId (s : State) : (reportSuccess s).curveId = s.curveId := rfl
@[simp] theorem reportSuccess_toggle (s : State) : (reportSuccess s).toggle = s.toggle := rfl
@[simp] theorem reportSuccess_waitingForStatus (s : State) : (reportSuccess s).waitingForStatus = s.waitingForStatus := rfl
@[simp] theorem reportSuccess_changedMode (s : State) : (reportSuccess s).changedMode = s.changedMode := rfl
@[simp] theorem reportSuccess_bufferResponse (s : State) : (reportSuccess s).bufferResponse = s.bufferResponse := rfl
@[simp] theorem reportSuccess_expectedStatus (s : State) : (reportSuccess s).expectedStatus = s.expectedStatus := rfl
@[simp] theorem reportSuccess_nextModeStatus (s : State) : (reportSuccess s).nextModeStatus = s.nextModeStatus := rfl
@[simp] theorem reportSuccess_timeoutCtr (s : State) : (reportSuccess s).timeoutCtr = s.timeoutCtr := rfl
@[simp] theorem reportSuccess_desc (s : State) : (reportSuccess s).desc = s.desc := rfl
@[simp] theorem reportSuccess_sp (s : State) : (reportSuccess s).sp = s.sp := rfl
@[simp] theorem reportSuccess_spCount (s : State) : (reportSuccess s).spCount = s.spCount := rfl
@[simp] theorem reportSuccess_txSrc (s : State) : (reportSuccess s).txSrc = s.txSrc := rfl
@[simp] theorem reportSuccess_txPos (s : State) : (reportSuccess s).txPos = s.txPos := rfl
@[simp] theorem reportSuccess_txLen (s : State) : (reportSuccess s).txLen = s.txLen := rfl
@[simp] theorem reportSuccess_rxTarget (s : State) : (reportSuccess s).rxTarget = s.rxTarget := rfl
@[simp] theorem reportSuccess_rxCount (s : State) : (reportSuccess s).rxCount = s.rxCount := rfl
@[simp] theorem reportSuccess_rxCap (s : State) : (reportSuccess s).rxCap = s.rxCap := rfl
@[simp] theorem reportSuccess_rxPending (s : State) : (reportSuccess s).rxPending = s.rxPending := rfl
@[simp] theorem reportSuccess_rxPendingValid (s : State) : (reportSuccess s).rxPendingValid = s.rxPendingValid := rfl
@[simp] theorem reportSuccess_xferState (s : State) : (reportSuccess s).xferState = .done := rfl
@[simp] theorem reportSuccess_result (s : State) : (reportSuccess s).result = .success := rfl
@[simp] theorem reportSuccess_message (s : State) : (reportSuccess s).message = .done := rfl
@[simp] theorem reportSuccess_failReason (s : State) : (reportSuccess s).failReason = s.failReason := rfl
@[simp] theorem reportSuccess_errorCode (s : State) : (reportSuccess s).errorCode = s.errorCode := rfl
@[simp] theorem reportSuccess_underflowFlag (s : State) : (reportSuccess s).underflowFlag = s.underflowFlag := rfl
@[simp] theorem reportSuccess_host (s : State) : (reportSuccess s).host = s.host := rfl
@[simp] theorem reportSuccess_lock (s : State) : (reportSuccess s).lock = s.lock := rfl
@[simp] theorem reportSuccess_profile (s : State) : (reportSuccess s).profile = s.profile := rfl
@[simp] theorem reportSuccess_profileCount (s : State) : (reportSuccess s).profileCount = s.profileCount := rfl
@[simp] theorem reportSuccess_params (s : State) : (reportSuccess s).params = s.params := rfl
@[simp] theorem reportSuccess_log (s : State) : (reportSuccess s).log = s.log := rfl
@[simp] theorem reportSuccess_answer (s : State) : (reportSuccess s).answer = s.answer := rfl
@[simp] theorem reportSuccess_script (s : State) : (reportSuccess s).script = s.script := rfl
@[simp] theorem reportSuccess_resets (s : State) : (reportSuccess s).resets = s.resets := rfl

end Sys2Proof.Machine
end

