-- ==== Sys2Proof/Laws/Machine.lean ====
section
/-! SUPPORT. One lemma per shared operation: everything it can do. -/

namespace Sys2Proof.Machine

/-! ### How an operation ends -/

@[simp] theorem andThen_go (s : State) (f : State → Flow) : (Flow.go s).andThen f = f s := rfl
@[simp] theorem andThen_ended (s : State) (f : State → Flow) : (Flow.ended s).andThen f = .ended s := rfl
@[simp] theorem andThen_abandon (l : List OutEvent) (f : State → Flow) : (Flow.abandon l).andThen f = .abandon l := rfl
@[simp] theorem andThen_fault (e : Fault) (f : State → Flow) : (Flow.fault e).andThen f = .fault e := rfl

@[simp] theorem settle_go (s t : State) : settle s (.go t) = .next t := rfl
@[simp] theorem settle_ended (s t : State) : settle s (.ended t) = .next t := rfl
@[simp] theorem settle_abandon (s : State) (l : List OutEvent) : settle s (.abandon l) = .next { s with log := l } := rfl
@[simp] theorem settle_fault (s : State) (e : Fault) : settle s (.fault e) = .fault e := rfl

/-- What a settled operation answers. -/
theorem settle_next {s t : State} {x : Flow} (h : settle s x = .next t) :
    x = .go t ∨ x = .ended t ∨ ∃ l, x = .abandon l ∧ t = { s with log := l } := by
  cases x with
  | go u => simp only [settle_go, Host.Outcome.next.injEq] at h; subst h; exact .inl rfl
  | ended u => simp only [settle_ended, Host.Outcome.next.injEq] at h; subst h; exact .inr (.inl rfl)
  | abandon l =>
    simp only [settle_abandon, Host.Outcome.next.injEq] at h
    exact .inr (.inr ⟨l, rfl, h.symm⟩)
  | fault e => simp at h

/-- A settled operation stops only where the operation faulted, and is never refused. -/
theorem settle_fault_iff {s : State} {x : Flow} {e : Fault} : settle s x = .fault e ↔ x = .fault e := by
  cases x <;> simp

theorem settle_not_refused {s : State} {x : Flow} {r : Refusal} : settle s x ≠ .refused r := by
  cases x <;> simp

/-- A sequence goes on only if both its parts did. -/
theorem andThen_eq_go {x : Flow} {f : State → Flow} {t : State} : x.andThen f = .go t ↔ ∃ s, x = .go s ∧ f s = .go t := by
  cases x <;> simp

/-- A sequence ends in its first part or in its second. -/
theorem andThen_eq_ended {x : Flow} {f : State → Flow} {t : State} :
    x.andThen f = .ended t ↔ x = .ended t ∨ ∃ s, x = .go s ∧ f s = .ended t := by
  cases x <;> simp

theorem andThen_eq_abandon {x : Flow} {f : State → Flow} {l : List OutEvent} :
    x.andThen f = .abandon l ↔ x = .abandon l ∨ ∃ s, x = .go s ∧ f s = .abandon l := by
  cases x <;> simp

theorem andThen_eq_fault {x : Flow} {f : State → Flow} {e : Fault} :
    x.andThen f = .fault e ↔ x = .fault e ∨ ∃ s, x = .go s ∧ f s = .fault e := by
  cases x <;> simp

/-! ### Endpoints -/

@[simp] theorem regWrite_true (p : OutPort) (v : Word) (s : State) : regWrite p true v s = .go (emit (.write p v) s) := rfl
@[simp] theorem regWrite_false (p : OutPort) (v : Word) (s : State) : regWrite p false v s = .abandon s.log := rfl

/-- Part 1 goes on with nothing changed, or abandons the step. -/
theorem regReads_cases (c : Cycle) (s : State) :
    (c.statusOk = true ∧ c.valueOk = true ∧ regReads c s = .go s) ∨
    ((c.statusOk = false ∨ c.valueOk = false) ∧ regReads c s = .abandon s.log) := by
  rcases c with ⟨a, _, b, _, _, _, _⟩
  cases a <;> cases b <;> simp [regReads]

/-! ### The parts of a step -/

/-- TMO.EXPIRE fails the session or changes nothing. -/
theorem checkExpired_cases (s : State) :
    (s.params.timeoutCycles < s.timeoutCtr.toNat ∧ checkExpired s = .ended (failed .timeout 0 s)) ∨
    (s.timeoutCtr.toNat ≤ s.params.timeoutCycles ∧ checkExpired s = .go s) := by
  unfold checkExpired expired
  by_cases h : s.params.timeoutCycles < s.timeoutCtr.toNat
  · simp [h, raiseFail]
  · simp [h, Nat.le_of_not_lt h]

/-- The four outcomes of the comparison of the status word. -/
theorem actOnStatus_cases (sw : Word) (s : State) :
    (classify sw s = .adv ∧ actOnStatus sw s = .go (advance s)) ∨
    (classify sw s = .steady ∧ actOnStatus sw s = .go s) ∨
    (classify sw s = .err ∧ actOnStatus sw s = .ended (failed .deviceError (codeByte sw) s)) ∨
    (classify sw s = .nomatch ∧ actOnStatus sw s = .ended s) := by
  unfold actOnStatus
  cases h : classify sw s <;> simp [raiseFail]

/-- Part 2: not performed, timed out, or the comparison of the status word with the counter one higher. -/
theorem part2_cases (sw : Word) (s : State) :
    (s.waitingForStatus = false ∧ part2 sw s = .go s) ∨
    (s.waitingForStatus = true ∧ s.params.timeoutCycles < (s.timeoutCtr + 1).toNat ∧
      part2 sw s = .ended (failed .timeout 0 { s with timeoutCtr := s.timeoutCtr + 1 })) ∨
    (s.waitingForStatus = true ∧ (s.timeoutCtr + 1).toNat ≤ s.params.timeoutCycles ∧
      part2 sw s = actOnStatus sw { s with timeoutCtr := s.timeoutCtr + 1 }) := by
  unfold part2
  by_cases h : s.waitingForStatus = true
  · have hc : countLook s = { s with timeoutCtr := s.timeoutCtr + 1 } := by simp [countLook, h]
    rw [if_pos h, hc]
    rcases checkExpired_cases { s with timeoutCtr := s.timeoutCtr + 1 } with ⟨h1, h2⟩ | ⟨h1, h2⟩
    · exact .inr (.inl ⟨h, h1, by rw [h2]; rfl⟩)
    · exact .inr (.inr ⟨h, h1, by rw [h2]; rfl⟩)
  · rw [if_neg h]
    exact .inl ⟨by simpa using h, rfl⟩

/-- RX.PUSH stores a word of DESC, overflows, latches a setpoint, or drops the word; it faults only where the capacity
exceeds DESC. -/
theorem receive_cases (v : Word) (s : State) :
    (s.bufferResponse = false ∧ receive v s = .go s) ∨
    (s.bufferResponse = true ∧ s.rxTarget = .toDesc ∧ s.rxCap.toNat ≤ s.rxCount.toNat ∧
      receive v s = .ended (failed .overflow 0 s)) ∨
    (s.bufferResponse = true ∧ s.rxTarget = .toDesc ∧ s.rxCount.toNat < s.rxCap.toNat ∧ s.rxCount.toNat < descWords ∧
      receive v s = .go { s with desc := storeWord s.desc s.rxCount.toNat v, rxCount := s.rxCount + 1 }) ∨
    (s.bufferResponse = true ∧ s.rxTarget = .toDesc ∧ s.rxCount.toNat < s.rxCap.toNat ∧
      descWords ≤ s.rxCount.toNat ∧ receive v s = .fault .descAddress) ∨
    (s.bufferResponse = true ∧ s.rxTarget = .toPending ∧
      receive v s = .go { s with rxPending := v, rxPendingValid := true }) := by
  unfold receive
  by_cases hb : s.bufferResponse = true
  · rw [if_pos hb]
    unfold storeReceived
    cases ht : s.rxTarget with
    | toDesc =>
      by_cases h1 : s.rxCap.toNat ≤ s.rxCount.toNat
      · simp [hb, h1, raiseFail]
      · by_cases h2 : s.rxCount.toNat < descWords
        · simp [hb, h1, h2, Nat.lt_of_not_le h1]
        · simp [hb, h1, h2, Nat.lt_of_not_le h1, Nat.le_of_not_lt h2]
    | toPending => simp [hb]
  · rw [if_neg hb]
    exact .inl ⟨by simpa using hb, rfl⟩

/-- SP.APPEND does nothing, overflows, or stores the pending setpoint. -/
theorem appendPending_cases (s : State) :
    (s.rxPendingValid = false ∧ appendPending s = .go s) ∨
    (s.rxPendingValid = true ∧ s.params.maxSetpoints ≤ s.spCount.toNat ∧
      appendPending s = .ended (failed .overflow 0 s)) ∨
    (s.rxPendingValid = true ∧ s.spCount.toNat < s.params.maxSetpoints ∧
      appendPending s = .go { s with sp := storeWord s.sp s.spCount.toNat s.rxPending, spCount := s.spCount + 1,
                                     rxPendingValid := false }) := by
  unfold appendPending
  by_cases hv : s.rxPendingValid = true
  · by_cases hf : s.params.maxSetpoints ≤ s.spCount.toNat
    · simp [hv, hf, raiseFail]
    · simp [hv, hf, Nat.lt_of_not_le hf]
  · rw [if_neg hv]
    exact .inl ⟨by simpa using hv, rfl⟩

/-- The word under the cursor exists where the cursor lies in its memory. -/
theorem cursorWord_cases (s : State) :
    (s.txSrc = .fromDesc ∧ s.txPos.toNat < descWords ∧ cursorWord s = .ok (wordAt s.desc s.txPos.toNat)) ∨
    (s.txSrc = .fromDesc ∧ descWords ≤ s.txPos.toNat ∧ cursorWord s = .error .descAddress) ∨
    (s.txSrc = .fromSp ∧ s.txPos.toNat < s.params.maxSetpoints ∧
      cursorWord s = .ok (wordAt s.sp s.txPos.toNat)) ∨
    (s.txSrc = .fromSp ∧ s.params.maxSetpoints ≤ s.txPos.toNat ∧ cursorWord s = .error .spAddress) := by
  unfold cursorWord
  cases hs : s.txSrc with
  | fromDesc =>
    by_cases h : s.txPos.toNat < descWords
    · simp [h]
    · simp [h, Nat.le_of_not_lt h]
  | fromSp =>
    by_cases h : s.txPos.toNat < s.params.maxSetpoints
    · simp [h]
    · simp [h, Nat.le_of_not_lt h]

/-- TX.NEXT underflows, sends the word under the cursor, abandons on a failed write, or has no such word. -/
theorem sendNext_cases (ok : Bool) (s : State) :
    (s.txLen.toNat ≤ s.txPos.toNat ∧ sendNext ok s = .go { s with underflowFlag := true }) ∨
    (s.txPos.toNat < s.txLen.toNat ∧ ∃ w, cursorWord s = .ok w ∧ ok = true ∧
      sendNext ok s = .go { s with log := s.log ++ [.write .valueOut w], txPos := s.txPos + 1 }) ∨
    (s.txPos.toNat < s.txLen.toNat ∧ ∃ w, cursorWord s = .ok w ∧ ok = false ∧ sendNext ok s = .abandon s.log) ∨
    (s.txPos.toNat < s.txLen.toNat ∧ ∃ e, cursorWord s = .error e ∧ sendNext ok s = .fault e) := by
  unfold sendNext
  by_cases h : s.txPos.toNat < s.txLen.toNat
  · rw [if_pos h]
    cases hc : cursorWord s with
    | error e => simp [h]
    | ok w => cases ok <;> simp [h, emit]
  · rw [if_neg h]
    exact .inl ⟨Nat.le_of_not_lt h, rfl⟩

/-- Parts 6 and 7 write the control word and arm the wait, abandon, or (no phase) do nothing. -/
theorem emitControl_cases (ok : Bool) (s : State) :
    (controlWord s = none ∧ emitControl ok s = .go s) ∨
    (∃ w, controlWord s = some w ∧ ok = true ∧
      emitControl ok s = .go { s with log := s.log ++ [.write .controlWord w], waitingForStatus := true,
                                      timeoutCtr := 0 }) ∨
    (∃ w, controlWord s = some w ∧ ok = false ∧ emitControl ok s = .abandon s.log) := by
  unfold emitControl
  cases h : controlWord s with
  | none => simp
  | some w => cases ok <;> simp [emit, armWait]

/-! ### The lock, and the step under it -/

@[simp] theorem afterStep_next (f : State → State) (s : State) : afterStep f (.next s) = .next (f s) := rfl
@[simp] theorem afterStep_fault (f : State → State) (e : Fault) : afterStep f (.fault e) = .fault e := rfl
@[simp] theorem afterStep_refused (f : State → State) (r : Refusal) : afterStep f (.refused r) = .refused r := rfl

/-- STEP runs the step that is due to a busy engine, or does nothing. -/
theorem stepOnce_cases (c : Cycle) (s : State) :
    (s.xferState = .busy ∧ s.lock = .held ∧ stepOnce c s = runStep c s) ∨
    (¬ (s.xferState = .busy ∧ s.lock = .held) ∧ stepOnce c s = .next s) := by
  unfold stepOnce
  by_cases h : s.xferState = .busy ∧ s.lock = .held
  · exact .inl ⟨h.1, h.2, if_pos h⟩
  · exact .inr ⟨h, if_neg h⟩

/-- LOCK.ACQ gives a waiting step of a busy engine the lock, or does nothing. -/
theorem askLock_cases (g : Bool) (s : State) :
    (g = true ∧ s.xferState = .busy ∧ s.lock = .waiting ∧ askLock g s = setLock .held s) ∨
    (¬ (g = true ∧ s.xferState = .busy ∧ s.lock = .waiting) ∧ askLock g s = s) := by
  unfold askLock
  by_cases h : g = true ∧ s.xferState = .busy ∧ s.lock = .waiting
  · exact .inl ⟨h.1, h.2.1, h.2.2, if_pos h⟩
  · exact .inr ⟨h, if_neg h⟩

/-- LOCK.REL gives the lock back after its step, or does nothing. -/
theorem giveBack_cases (s : State) :
    (s.lock = .stepped ∧ giveBack s = setLock .free s) ∨ (s.lock ≠ .stepped ∧ giveBack s = s) := by
  unfold giveBack
  by_cases h : s.lock = .stepped
  · exact .inl ⟨h, if_pos h⟩
  · exact .inr ⟨h, if_neg h⟩

/-- TICK: nothing, the step that becomes due and runs under the lock, the step that waits, or the refusal of a tick
during a step. -/
theorem execTick_cases (c : Cycle) (g : Bool) (s : State) :
    (s.xferState ≠ .busy ∧ execTick c g s = .next s) ∨
    (s.xferState = .busy ∧ s.lock = .free ∧ g = true ∧
      execTick c g s = afterStep giveBack (runStep c (setLock .held s))) ∨
    (s.xferState = .busy ∧ s.lock = .free ∧ g = false ∧ execTick c g s = .next (setLock .waiting s)) ∨
    (s.xferState = .busy ∧ s.lock ≠ .free ∧ execTick c g s = .refused .tickOverrun) := by
  unfold execTick
  by_cases hb : s.xferState = .busy
  · rw [if_pos hb]
    by_cases hl : s.lock = .free
    · rw [if_pos hl]
      cases g with
      | true =>
        refine .inr (.inl ⟨hb, hl, rfl, ?_⟩)
        have ha : askLock true (setLock .waiting s) = setLock .held s := by simp [askLock, setLock, hb]
        simp [lockedStep, ha, stepOnce, hb]
      | false =>
        refine .inr (.inr (.inl ⟨hb, hl, rfl, ?_⟩))
        simp [lockedStep, askLock, stepOnce, giveBack]
    · rw [if_neg hl]
      exact .inr (.inr (.inr ⟨hb, hl, rfl⟩))
  · rw [if_neg hb]
    exact .inl ⟨hb, rfl⟩

/-! ### The step of the machine -/

/-- One event: what `step` does at the front of the script. -/
theorem step_cases (s : State) :
    (s.script = [] ∧ step s = .next s) ∨
    (∃ i rest, decodeEvent s.script = .ok (.instr i, rest) ∧ step s = exec i { s with script := rest }) ∨
    (∃ w rest, decodeEvent s.script = .ok (.host w, rest) ∧ step s = execHostWrite w { s with script := rest }) ∨
    (∃ r rest, decodeEvent s.script = .ok (.read r, rest) ∧ step s = execHostRead r { s with script := rest }) ∨
    (∃ r, decodeEvent s.script = .error r ∧ step s = .refused (.badFrame r)) := by
  unfold step fetch
  by_cases h : s.script = []
  · simp [h]
  · rw [if_neg h]
    cases hd : decodeEvent s.script with
    | error r => simp
    | ok p =>
      rcases p with ⟨e, rest⟩
      cases e with
      | instr i => exact .inr (.inl ⟨i, rest, rfl, rfl⟩)
      | host w => exact .inr (.inr (.inl ⟨w, rest, rfl, rfl⟩))
      | read r => exact .inr (.inr (.inr (.inl ⟨r, rest, rfl, rfl⟩)))

end Sys2Proof.Machine
end

