-- ==== Sys2Proof/Laws/Memory.lean ====
section
/-! SUPPORT. What the memory operations do: they keep the canonical form and the range, and a read after a write gives
the byte written there and the old byte elsewhere. -/

namespace Sys2Proof.Machine

/-! ### Canonical form and range, on a list with a head -/

theorem wf_cons {c : Host.Cell} {m : Memory} :
    Memory.wf (c :: m) = true ↔ c.2 ≠ blankByte ∧ (∀ d ∈ m.head?, c.1 < d.1) ∧ Memory.wf m = true := by
  rcases c with ⟨a, v⟩
  cases m with
  | nil => simp [Memory.wf]
  | cons d m => rcases d with ⟨b, w⟩; simp [Memory.wf, and_assoc]

theorem wf_tail {c : Host.Cell} {m : Memory} (h : Memory.wf (c :: m) = true) : Memory.wf m = true := (wf_cons.1 h).2.2

/-- In canonical form the head's address is below every other. -/
theorem wf_head_lt {c : Host.Cell} {m : Memory} (h : Memory.wf (c :: m) = true) : ∀ d ∈ m, c.1 < d.1 := by
  induction m generalizing c with
  | nil => simp
  | cons e m ih =>
    obtain ⟨_, h2, h3⟩ := wf_cons.1 h
    have he : c.1 < e.1 := h2 e (by simp)
    intro d hd
    rcases List.mem_cons.1 hd with rfl | hd
    · exact he
    · exact lt_trans he (ih h3 d hd)

theorem readByte_of_lt {m : Memory} {x : Nat} (h : ∀ d ∈ m, x < d.1) : readByte m x = blankByte := by
  induction m with
  | nil => rfl
  | cons d m ih =>
    rcases d with ⟨b, v⟩
    have hb : x < b := h (b, v) (by simp)
    simp only [readByte]
    rw [if_neg (by omega)]
    exact ih fun e he => h e (by simp [he])

/-! ### One byte -/

theorem writeByte_mem {m : Memory} {a : Nat} {v : Byte} : ∀ d ∈ writeByte m a v, d.1 = a ∨ d ∈ m := by
  induction m with
  | nil => intro d; simp only [writeByte]; split <;> simp_all
  | cons c m ih =>
    rcases c with ⟨b, w⟩
    intro d
    simp only [writeByte]
    split
    · split <;> simp_all
      rintro (rfl | h | h) <;> simp_all
    · split
      · split <;> simp_all
        rintro (rfl | h) <;> simp_all
      · intro hd
        rcases List.mem_cons.1 hd with rfl | hd
        · simp
        · rcases ih d hd with h | h <;> simp [h]

/-- Writing a byte keeps the canonical form. -/
theorem writeByte_wf {m : Memory} {a : Nat} {v : Byte} (h : Memory.wf m = true) : Memory.wf (writeByte m a v) = true := by
  induction m with
  | nil => simp only [writeByte]; split <;> simp_all [Memory.wf]
  | cons c m ih =>
    rcases c with ⟨b, w⟩
    obtain ⟨h1, h2, h3⟩ := wf_cons.1 h
    simp only [writeByte]
    split
    · split
      · exact h
      · exact wf_cons.2 ⟨‹_›, by simpa using ‹a < b›, h⟩
    · split
      · rename_i hab
        subst hab
        split
        · exact h3
        · exact wf_cons.2 ⟨‹_›, h2, h3⟩
      · refine wf_cons.2 ⟨h1, fun d hd => ?_, ih h3⟩
        rcases writeByte_mem d (List.mem_of_mem_head? hd) with hda | hda
        · simp only [hda]; omega
        · exact wf_head_lt h d hda

/-- Writing a byte below `n` keeps the range. -/
theorem writeByte_below {n : Nat} {m : Memory} {a : Nat} {v : Byte} (ha : a < n) (h : Memory.below n m = true) :
    Memory.below n (writeByte m a v) = true := by
  simp only [Memory.below, List.all_eq_true, decide_eq_true_eq] at *
  intro d hd
  rcases writeByte_mem d hd with hda | hda
  · omega
  · exact h d hda

/-- A read after a write of one byte. -/
theorem readByte_writeByte {m : Memory} {a x : Nat} {v : Byte} (h : Memory.wf m = true) :
    readByte (writeByte m a v) x = if x = a then v else readByte m x := by
  induction m with
  | nil =>
    simp only [writeByte]
    by_cases hv : v = blankByte <;> by_cases hx : x = a <;> simp_all [readByte]
  | cons c m ih =>
    rcases c with ⟨b, w⟩
    have hlt := wf_head_lt h
    simp only [writeByte]
    split
    · rename_i hab
      by_cases hx : x = a
      · subst hx
        split
        · have : readByte ((b, w) :: m) x = blankByte := readByte_of_lt (by
            intro d hd
            rcases List.mem_cons.1 hd with rfl | hd
            · exact hab
            · exact lt_trans hab (hlt d hd))
          simp_all
        · simp [readByte]
      · rw [if_neg hx]
        split
        · rfl
        · simp [readByte, hx]
    · split
      · rename_i hab
        subst hab
        by_cases hx : x = a
        · subst hx
          split
          · rw [readByte_of_lt hlt]; simp_all
          · simp [readByte]
        · split <;> simp [readByte, hx]
      · simp only [readByte, ih (wf_tail h)]
        by_cases hbx : x = b
        · have : x ≠ a := by omega
          rw [if_pos hbx, if_neg this, if_pos hbx]
        · rw [if_neg hbx, if_neg hbx]

/-- Nothing is listed at or above the range. -/
theorem readByte_of_below {n : Nat} {m : Memory} {x : Nat} (h : Memory.below n m = true) (hx : n ≤ x) :
    readByte m x = blankByte := by
  induction m with
  | nil => rfl
  | cons d m ih =>
    rcases d with ⟨b, v⟩
    simp only [Memory.below, List.all_cons, Bool.and_eq_true, decide_eq_true_eq] at h
    simp only [readByte]
    rw [if_neg (by omega)]
    exact ih h.2

/-! ### Several bytes -/

theorem writeBytes_wf {m : Memory} {a : Nat} {vs : List Byte} (h : Memory.wf m = true) :
    Memory.wf (writeBytes m a vs) = true := by
  induction vs generalizing m a with
  | nil => exact h
  | cons v vs ih => exact ih (writeByte_wf h)

theorem writeBytes_below {n : Nat} {m : Memory} {a : Nat} {vs : List Byte} (ha : a + vs.length ≤ n)
    (h : Memory.below n m = true) : Memory.below n (writeBytes m a vs) = true := by
  induction vs generalizing m a with
  | nil => exact h
  | cons v vs ih =>
    simp only [List.length_cons] at ha
    exact ih (by omega) (writeByte_below (by omega) h)

/-- A read after a write of several bytes. -/
theorem readByte_writeBytes {m : Memory} {a x : Nat} {vs : List Byte} (h : Memory.wf m = true) :
    readByte (writeBytes m a vs) x = if a ≤ x ∧ x < a + vs.length then vs.getD (x - a) 0 else readByte m x := by
  induction vs generalizing m a with
  | nil => simp only [writeBytes, List.length_nil]; rw [if_neg (by omega)]
  | cons v vs ih =>
    simp only [writeBytes, ih (writeByte_wf h), readByte_writeByte h, List.length_cons]
    by_cases hx : x = a
    · subst hx
      simp
    · by_cases hin : a ≤ x ∧ x < a + (vs.length + 1)
      · rw [if_pos (by omega), if_pos hin]
        have : x - a = (x - (a + 1)) + 1 := by omega
        rw [this, List.getD_cons_succ]
      · rw [if_neg (by omega), if_neg hin, if_neg hx]

/-- A read outside the bytes written. -/
theorem readByte_writeBytes_outside {m : Memory} {a x : Nat} {vs : List Byte} (h : Memory.wf m = true)
    (hx : ¬ (a ≤ x ∧ x < a + vs.length)) : readByte (writeBytes m a vs) x = readByte m x := by
  rw [readByte_writeBytes h, if_neg hx]

@[simp] theorem le32_length (w : Word) : (le32 w).length = 4 := rfl
@[simp] theorem le16_length (v : Half) : (le16 v).length = 2 := rfl

theorem storeWord_wf {m : Memory} {k : Nat} {w : Word} (h : Memory.wf m = true) : Memory.wf (storeWord m k w) = true :=
  writeBytes_wf h

theorem storeWord_below {n : Nat} {m : Memory} {k : Nat} {w : Word} (hk : 4 * k + 4 ≤ n)
    (h : Memory.below n m = true) : Memory.below n (storeWord m k w) = true := writeBytes_below (by simpa using hk) h

/-- A byte outside the word stored reads as before. -/
theorem readByte_storeWord_outside {m : Memory} {k x : Nat} {w : Word} (h : Memory.wf m = true)
    (hx : ¬ (4 * k ≤ x ∧ x < 4 * k + 4)) : readByte (storeWord m k w) x = readByte m x :=
  readByte_writeBytes_outside h (by simpa using hx)

/-- Splitting a word in bytes and joining them gives the word (20_memory R72). -/
theorem join32_le32 (w : Word) :
    join32 (w.extractLsb' 0 8) (w.extractLsb' 8 8) (w.extractLsb' 16 8) (w.extractLsb' 24 8) = w := by
  apply BitVec.eq_of_getLsbD_eq
  intro i hi
  simp only [join32, BitVec.getLsbD_append, BitVec.getLsbD_extractLsb']
  split
  · rename_i h; simp [h]
  · split
    · rename_i _ h; simp only [h, decide_true, Bool.true_and]; congr 1; omega
    · split
      · rename_i _ h; simp only [h, decide_true, Bool.true_and]; congr 1; omega
      · have h : i - 8 - 8 - 8 < 8 := by omega
        simp only [h, decide_true, Bool.true_and]; congr 1; omega

/-- A word reads back as it was stored. -/
theorem wordAt_storeWord {m : Memory} {k : Nat} {w : Word} (h : Memory.wf m = true) : wordAt (storeWord m k w) k = w := by
  simp only [wordAt, rd32, storeWord, readByte_writeBytes h, le32_length]
  have e : ∀ j, j < 4 → (4 * k ≤ 4 * k + j ∧ 4 * k + j < 4 * k + 4) := fun j hj => by omega
  have e0 : 4 * k ≤ 4 * k ∧ 4 * k < 4 * k + 4 := by omega
  simp only [if_pos e0, if_pos (e 1 (by omega)), if_pos (e 2 (by omega)), if_pos (e 3 (by omega)),
    Nat.add_sub_cancel_left, Nat.sub_self]
  exact join32_le32 w

/-- Another word reads as before. -/
theorem wordAt_storeWord_other {m : Memory} {j k : Nat} {w : Word} (h : Memory.wf m = true) (hjk : j ≠ k) :
    wordAt (storeWord m k w) j = wordAt m j := by
  simp only [wordAt, rd32]
  rw [readByte_storeWord_outside h (by omega), readByte_storeWord_outside h (by omega),
    readByte_storeWord_outside h (by omega), readByte_storeWord_outside h (by omega)]

end Sys2Proof.Machine
end

