-- ==== Sys2Proof/Tests/Slice0.lean ====
section
/-! SUPPORT. Tests: ill-formed terms are refused, words written out from the spec decode to their rows, single steps
give what 95_test_vectors gives, and for every statement with hypotheses a state and operands that meet them. -/

namespace Sys2Proof.Tests

open Sys2Proof Sys2Proof.Machine

set_option Elab.async false

/-! ### WellFormed refuses -/

theorem test_wf_refuses_code_zero_init : Instr.wf (.swInitErr 1 0) = false := by decide
theorem test_wf_refuses_code_zero_sendcmd : Instr.wf (.swSendcmdErr 1 0) = false := by decide
theorem test_wf_refuses_code_zero_curveinfo : Instr.wf (.swCurveinfoErr 1 0 true) = false := by decide
theorem test_wf_refuses_code_zero_setpoints : Instr.wf (.swSetpointsErr 1 0 true) = false := by decide
theorem test_wf_refuses_steady_code_curveinfo : Instr.wf (.swCurveinfoErr 0 4 false) = false := by decide
theorem test_wf_refuses_steady_code_setpoints : Instr.wf (.swSetpointsErr 0 4 true) = false := by decide
theorem test_wf_refuses_advance_as_nomatch : Instr.wf (.swInitNomatch 0x0F) = false := by decide
theorem test_wf_refuses_error_as_nomatch : Instr.wf (.swSendcmdNomatch 0x401) = false := by decide
theorem test_wf_refuses_long_name : Instr.wf (.setName (some (List.replicate 65536 0))) = false := by
  show decide ((List.replicate 65536 (0 : Byte)).length < 65536) = false
  rw [List.length_replicate]
  decide

/-! ### Decoding: every constructor, from bytes written out by the tables of 30_encoding -/

/-- 95_test_vectors V-CW, base modes 0x10 and 0x20. -/
theorem test_decode_control_words :
    decode [0, 0x00, 0xF0, 0x00, 0x00, 1] = .ok (.cwInit 0x0000F000 true, []) ∧
    decode [1, 0x01, 0x10, 0x00, 0x00, 1] = .ok (.cwSendcmdW 0x10 true, []) ∧
    decode [2, 0x01, 0x20, 0x00, 0x00, 0] = .ok (.cwSendcmdR 0x20 false, []) ∧
    decode [3, 0x03, 0x11, 0x00, 0x00, 1] = .ok (.cwCurveinfoW 0x11 true true, []) ∧
    decode [4, 0x02, 0x21, 0x00, 0x00, 1] = .ok (.cwCurveinfoR 0x21 false true, []) ∧
    decode [5, 0x04, 0xF1, 0xCD, 0xAB, 1] = .ok (.cwSetpointsW 0xABCDF1 false true, []) ∧
    decode [6, 0x05, 0x22, 0x00, 0x00, 1] = .ok (.cwSetpointsR 0x22 true true, []) := by decide

/-- Words that a control-word row does not have: bit 3 set, the other phase. -/
theorem test_decode_refuses_control_words :
    decode [1, 0x09, 0x10, 0x00, 0x00, 1] = .error (.badWord 0x1009) ∧
    decode [3, 0x04, 0x11, 0x00, 0x00, 1] = .error (.badWord 0x1104) ∧
    decode [3, 0x03, 0x11, 0x00, 0x00, 2] = .error (.badBit 2) ∧ decode [3, 0x03] = .error .short ∧
    decode [75] = .error (.unknownTag 75) ∧ decode [] = .error .noFrame := by decide

/-- 95_test_vectors V-SW. -/
theorem test_decode_status_words_of_init_and_sendcmd :
    decode [7, 0x0F, 0, 0, 0] = .ok (.swInitAdv, []) ∧ decode [8] = .ok (.swInitSteady, []) ∧
    decode [9, 0x0F, 0x12, 0xCD, 0xAB] = .ok (.swInitErr 0xABCD 0x12, []) ∧
    decode [10, 0x0F, 0x00, 0x01, 0x00] = .ok (.swInitNomatch 0x0001000F, []) ∧
    decode [11, 0x01, 0, 0, 0] = .ok (.swSendcmdAdv, []) ∧ decode [12] = .ok (.swSendcmdSteady, []) ∧
    decode [13, 0x01, 0x04, 0, 0] = .ok (.swSendcmdErr 0 4, []) ∧
    decode [14, 0x0F, 0, 0, 0] = .ok (.swSendcmdNomatch 0x0000000F, []) := by decide

theorem test_decode_status_words_of_the_data_phases :
    decode [15, 0x03, 0, 0, 0] = .ok (.swCurveinfoAdv true, []) ∧
    decode [16, 0x02, 0x04, 0, 0] = .ok (.swCurveinfoSteady false, []) ∧
    decode [17, 0x02, 0x04, 0x01, 0] = .ok (.swCurveinfoErr 1 4 false, []) ∧
    decode [18, 0x01, 0, 0, 0] = .ok (.swCurveinfoNomatch 0x00000001, []) ∧
    decode [19, 0x04, 0, 0, 0] = .ok (.swSetpointsAdv false, []) ∧
    decode [20, 0x05, 0x04, 0, 0] = .ok (.swSetpointsSteady true, []) ∧
    decode [21, 0x05, 0xC5, 0, 0] = .ok (.swSetpointsErr 0 0xC5 true, []) ∧
    decode [22, 0x02, 0, 0, 0] = .ok (.swSetpointsNomatch 0x00000002, []) := by decide

/-- The steady code is no error word; 0x0F is no error word of CurveInfo. -/
theorem test_decode_refuses_status_words :
    decode [17, 0x02, 0x04, 0, 0] = .error (.badWord 0x402) ∧ decode [9, 0x0F, 0, 0, 0] = .error (.badWord 0x0F) ∧
    decode [17, 0x0F, 0x05, 0, 0] = .error (.badWord 0x50F) ∧ decode [15, 0x04, 0, 0, 0] = .error (.badWord 4) := by
  decide

theorem test_decode_data_words :
    decode [23, 0x07, 0x00, 0, 0, 1] = .ok (.iw 7 true, []) ∧
    decode [24, 0x46, 0x00, 0x0C, 0x00, 1] = .ok (.bw 3 true, []) ∧
    decode [24, 0x46, 0x00, 0xFC, 0xFF, 1] = .ok (.bw 16383 true, []) ∧
    decode [24, 0x46, 0x00, 0x0D, 0x00, 1] = .error (.badWord 0x000D0046) ∧
    decode [25, 0x46, 0x00, 0x03, 0x00, 1] = .ok (.dw 0x00030046 true, []) ∧
    decode [26, 0xC7, 0xCF, 0xFF, 0xFF, 0] = .ok (.pw 0xFFFFCFC7 false, []) := by decide

/-- 95_test_vectors V-UNPACK-1: the record and its fields. -/
def recordBytes : List Byte :=
  [0x46, 0x00, 0x03, 0x00, 0x02, 0x00, 0x04, 0x00, 0x58, 0x59, 0x00, 0x00, 0x00, 0x00, 0x00, 0x00, 0x00, 0x00,
   0x00, 0x00, 0x00, 0x00, 0x00, 0x00, 0x00, 0x00, 0x00, 0x00, 0x00, 0x00, 0x02, 0x00, 0xA0, 0x86, 0x01, 0x00] ++
  [0x11, 0x00, 0x22, 0x00, 0x33, 0x00, 0x01, 0x00, 0x00, 0x00, 0x02, 0x00, 0x00, 0x00, 0x03, 0x00, 0x00, 0x00,
   0x04, 0x00, 0x00, 0x00, 0x05, 0x00, 0x00, 0x00, 0x06, 0x00, 0x00, 0x00, 0x07, 0x00, 0x00, 0x00]

/-- The fields 95_test_vectors gives for `recordBytes`. -/
def recordFields : Fields where
  dataOffset := 70
  objectType := 3
  numSetpoints := 2
  dataTypeSize := 4
  name := #v[0x58, 0x59, 0, 0, 0, 0, 0, 0, 0, 0, 0, 0, 0, 0, 0, 0, 0, 0, 0, 0, 0, 0]
  curveId := 2
  xLength := 100000
  xDimUuid := 0x11
  yDimUuid := 0x22
  wizardType := 0x33
  wizardParams := #v[1, 2, 3, 4, 5, 6, 7]

theorem test_decode_records :
    decode (27 :: (recordBytes ++ [0xEE, 0xFF])) = .ok (.record recordFields 0xEE 0xFF, []) ∧
    decode (28 :: recordBytes) = .ok (.pack recordFields, []) := by decide +kernel

theorem test_decode_codec_and_conversions :
    decode [29] = .ok (.unpack, []) ∧ decode [30, 0] = .ok (.setName none, []) ∧
    decode [30, 1, 2, 0, 0x41, 0x42] = .ok (.setName (some [0x41, 0x42]), []) ∧
    decode [31, 0x34, 0x12] = .ok (.blocksize 0x1234, []) ∧ decode [32] = .ok (.dump, []) ∧
    decode [33, 3, 0, 0, 0, 0, 0, 0, 0, 0, 0, 0, 0, 0, 0, 0xE0, 0x3F] = .ok (.xlenEncode 3 0x3FE0000000000000, []) ∧
    decode [34, 0xF0, 0x49, 0x02, 0x00, 3, 0] = .ok (.xlenDecode 150000 3, []) ∧
    decode [35, 7, 0, 0, 0, 0, 0, 0, 0, 0xF0, 0x3F] = .ok (.posEncode 7 0x3FF0000000000000, []) ∧
    decode [36, 0x39, 0x30, 0, 0] = .ok (.posDecode 0x3039, []) ∧
    decode [37, 1, 0, 1, 0, 0, 0, 0, 0, 0, 0xF0, 0x3F, 2, 0, 0, 0] =
      .ok (.project ⟨true, none, some 0x3FF0000000000000, 2⟩, []) := by decide +kernel

theorem test_decode_requests :
    decode [38, 1, 0, 3, 0, 1] = .ok (.reqWrite 1 3 true, []) ∧ decode [39, 2, 0] = .ok (.reqRead 2, []) ∧
    decode [40] = .ok (.sessionInit, []) ∧ decode [41, 0, 4, 0, 1, 0, 1] = .ok (.rejBusy (.write 4 1 true), []) ∧
    decode [42, 1, 101, 0] = .ok (.rejInvalidId (.read 101), []) ∧
    decode [43, 0, 1, 0, 0, 0, 1] = .ok (.rejInvalidDuration (.write 1 0 true), []) ∧
    decode [44, 0, 1, 0, 9, 0, 1] = .ok (.rejInvalidCount (.write 1 9 true), []) ∧
    decode [44, 2, 1, 0] = .error (.badChoice 2) ∧ decode [45] = .ok (.sinkRead, []) := by decide

theorem test_decode_steps :
    decode [46, 1, 0x0F, 0, 0, 0, 1, 9, 0, 0, 0, 1, 1, 0] =
      .ok (.step ⟨true, 0x0F, true, 9, true, true, false⟩, []) ∧
    decode [47] = .ok (.stepInit, []) ∧ decode [48, 1, 0] = .ok (.stepSendcmd true false, []) ∧
    decode [49] = .ok (.stepCurveinfo, []) ∧ decode [50] = .ok (.stepSetpoints, []) ∧
    decode [51] = .ok (.stepFinished, []) ∧ decode [52] = .ok (.stepUnknown, []) := by decide

theorem test_decode_toggle_and_classifier :
    decode [53] = .ok (.toggleSet1, []) ∧ decode [54] = .ok (.toggleFlipCurveinfo, []) ∧
    decode [55] = .ok (.toggleReset0, []) ∧ decode [56] = .ok (.toggleFlipSetpoints, []) ∧
    decode [57, 0x05, 0xC5, 0, 0] = .ok (.classify 0xC505, []) := by decide

theorem test_decode_serializer :
    decode [58] = .ok (.txLoadDesc, []) ∧ decode [59] = .ok (.txLoadSp, []) ∧ decode [60, 1] = .ok (.txNext true, []) ∧
    decode [61] = .ok (.rxArmDesc, []) ∧ decode [62] = .ok (.rxArmSp, []) ∧
    decode [63, 1, 2, 3, 4] = .ok (.rxPush 0x04030201, []) ∧
    decode [64] = .ok (.spAppend, []) := by decide

theorem test_decode_detector_and_scheduler :
    decode [65] = .ok (.tmoTick, []) ∧ decode [66] = .ok (.tmoExpire, []) ∧ decode [67] = .ok (.tmoArm, []) ∧
    decode [68, 0x05, 0xC5, 0, 0] = .ok (.errDevice 0xC505, []) ∧
    decode [69, 2, 0xC5] = .ok (.fail .deviceError 0xC5, []) ∧ decode [69, 0, 0] = .error (.badChoice 0) := by decide

theorem test_decode_scheduler_and_reset :
    decode [70, 1, 0x0F, 0, 0, 0, 0, 9, 0, 0, 0, 1, 1, 0, 1] =
      .ok (.tick ⟨true, 0x0F, false, 9, true, true, false⟩ true, []) ∧
    decode [71] = .ok (.tickIdle, []) ∧ decode [72, 1] = .ok (.lockAcq true, []) ∧
    decode [73] = .ok (.lockRel, []) ∧ decode [74] = .ok (.reset, []) := by decide

theorem test_decode_host_writes :
    decodeEvent [135, 7, 0, 0x39, 0x30, 0, 0, 45] = .ok (.host (.setpoint 7 0x3039), [45]) ∧
    decodeEvent [134, 6, 1, 0, 0, 0] = .ok (.host (.wizardParam 6 1), []) ∧
    decodeEvent [134, 7, 1, 0, 0, 0] = .error (.badChoice 7) ∧
    decodeEvent [136, 8, 0] = .ok (.host (.setpointCount 8), []) ∧ decodeEvent [74] = .ok (.instr .reset, []) := by
  decide

theorem test_decode_host_reads :
    decodeEvent [137, 17, 45] = .ok (.read (.descWord 17), [45]) ∧ decodeEvent [137, 18] = .error (.badChoice 18) ∧
    decodeEvent [138, 7, 1] = .ok (.read (.setpoint 0x107), []) ∧ decodeEvent [139] = .ok (.read .dataRegs, []) ∧
    decodeEvent [140] = .error (.unknownTag 140) := by decide

/-! ### Small states -/

/-- The example parameters of 95_test_vectors, but the largest BASE_MODE_READ. -/
def prm : Params where
  timeoutCycles := 3
  baseModeWrite := 0x10
  baseModeRead := 0xFFFFFC
  initControlWord := 0x0000F000
  maxCurveId := 100
  maxSetpoints := 8
  dataOffset := 70
  posRounds := []
  maxPoints := 2

/-- After reset, with these parameters. -/
def base : State := { State.reset with params := prm }

/-- The state an operation leaves, or `base` where it stops. -/
def result (x : Host.Outcome State Fault Refusal) : State :=
  match x with
  | .next s => s
  | .fault _ => base
  | .refused _ => base

/-- A write session of 3 setpoints, just accepted. -/
def writing : State := result (exec (.reqWrite 1 3 true) base)
/-- A read session, just accepted. -/
def reading : State := result (exec (.reqRead 2) base)
/-- A session in a phase: it waits with these codes. -/
def waiting (d : Dir) (st : BitVec 3) (t : Bool) (adv steady : Word) : State :=
  { writing with
    dir := d, state := st, toggle := t, waitingForStatus := true, nextModeStatus := adv, expectedStatus := steady }
/-- Waiting in CurveInfo with toggle 0, the cursor before the last word of DESC. -/
def sendingDesc : State :=
  { waiting .write 2 false 0x002 0x402 with txSrc := .fromDesc, txPos := 17, txLen := 18 }
/-- Waiting in Setpoints with toggle 1, the cursor before the last setpoint. -/
def sendingSp : State := { waiting .write 3 true 0x005 0x405 with txSrc := .fromSp, txPos := 2, txLen := 3 }
/-- Waiting in CurveInfo of a read session with 17 words received. -/
def receivingDesc : State :=
  { waiting .read 2 true 0x003 0x403 with bufferResponse := true, rxTarget := .toDesc, rxCount := 17, rxCap := 18 }
/-- In Setpoints of a read session with a pending setpoint and room for one. -/
def pendingSp : State :=
  { waiting .read 3 false 0x004 0x404 with
    bufferResponse := true, rxTarget := .toPending, rxCount := 18, spCount := 7, rxPending := 0x3039,
    rxPendingValid := true }

/-! ### Single steps (95_test_vectors) -/

/-- V-PACK-1, the words of the record; V-PACK-2, the padding. -/
theorem test_pack_words :
    wordAt (result (exec (.pack recordFields) base)).desc 0 = 0x00030046 ∧
    wordAt (result (exec (.pack recordFields) base)).desc 10 = 0x00010033 ∧
    wordAt (result (exec (.pack recordFields) base)).desc 17 = 0x00000000 := by decide +kernel

theorem test_record_keeps_padding :
    wordAt (result (exec (.record recordFields 0xEE 0xFF) base)).desc 17 = 0xFFEE0000 := by decide +kernel

theorem test_unpack :
    (result (exec .unpack (result (exec (.record recordFields 0xEE 0xFF) base)))).answer = .fields recordFields := by
  decide +kernel

/-- S2. -/
theorem test_blocksize :
    (result (exec (.blocksize 3) base)).answer = .word 0x000C0046 ∧
    (result (exec (.blocksize 16384) base)).answer = .word 0x00000046 ∧
    (result (exec (.blocksize 65535) base)).answer = .word 0xFFFC0046 := by decide

/-- V-NAME. -/
theorem test_set_name :
    (result (exec (.setName (some [0x5A])) base)).host.name = #v[0x5A, 0, 0, 0, 0, 0, 0, 0, 0, 0, 0, 0, 0, 0, 0, 0, 0, 0, 0, 0, 0, 0] ∧
    (result (exec (.setName (some (List.replicate 22 0x78))) base)).answer = .name false ∧
    (result (exec (.setName (some (List.replicate 21 0x78))) base)).answer = .name true := by decide +kernel

/-- V-XLEN-ENC: (3, 0.5), (2, 0.29), (1, 42949.672959), (1, 42949.67296). -/
theorem test_xlen_encode :
    (result (exec (.xlenEncode 3 0x3FE0000000000000) base)).answer = .xlen (some 150000) ∧
    (result (exec (.xlenEncode 2 0x3FD28F5C28F5C28F) base)).answer = .xlen (some 57999) ∧
    (result (exec (.xlenEncode 1 0x40E4F8B588E15012) base)).answer = .xlen (some 4294967295) ∧
    (result (exec (.xlenEncode 1 0x40E4F8B588E368F1) base)).answer = .xlen none ∧
    (result (exec (.xlenEncode 0 0x3F847AE147AE147B) base)).answer = .xlen none := by decide +kernel

/-- V-XLEN-DEC, V-POS-DEC: (150000, 3) gives 0.5; 0x3039 gives 1.2345, 0xFFFFCFC7 gives -1.2345. -/
theorem test_decode_conversions :
    (result (exec (.xlenDecode 150000 3) base)).answer = .real 0x3FE0000000000000 ∧
    (result (exec (.posDecode 0x3039) base)).answer = .real 0x3FF3C083126E978D ∧
    (result (exec (.posDecode 0xFFFFCFC7) base)).answer = .real 0xBFF3C083126E978D := by decide +kernel

/-- V-POS-ENC: 1.2345 and -1.2345. -/
theorem test_pos_encode :
    wordAt (result (exec (.posEncode 7 0x3FF3C083126E978D) base)).sp 7 = 0x00003039 ∧
    wordAt (result (exec (.posEncode 0 0xBFF3C083126E978D) base)).sp 0 = 0xFFFFCFC7 := by decide +kernel

/-- V-REQ. -/
theorem test_requests :
    writing.answer = .req .accepted ∧ writing.xferState = .busy ∧ wordAt writing.desc 1 = 0x00040003 ∧
    (result (exec (.reqRead 101) base)).answer = .req .invalidId ∧
    (result (exec (.reqWrite 0 0 true) base)).answer = .req .invalidId ∧
    (result (exec (.reqWrite 1 9 false) base)).answer = .req .invalidDuration ∧
    (result (exec (.reqWrite 1 9 true) base)).answer = .req .invalidCount ∧
    (result (exec (.reqRead 0) writing)).answer = .req .busy := by decide +kernel

/-- V-CW in steps of the sequencer, with BASE_MODE_WRITE = 0x10. -/
theorem test_step_writes :
    (result (exec (.tick (goodCycle 0 0) true) writing)).log = [.deleteCurveReq 1, .write .controlWord 0x0000F000] ∧
    (result (exec (.tick (goodCycle 0x0F 0) true) (waiting .write 0 false 0x0F 0x0F))).log =
      [.write .indexOut 1, .write .valueOut 0x000C0046, .write .controlWord 0x00001001] ∧
    (result (exec (.tick (goodCycle 0x01 0) true) (waiting .write 1 true 0x01 0x01))).log =
      [.write .valueOut 0x00000046, .write .controlWord 0x00001102] := by decide +kernel

/-- With the largest base mode the mode field is 0xFFFFFE. -/
theorem test_step_reads :
    (result (exec (.tick (goodCycle 0x003 0xFFEE0000) true) receivingDesc)).log = [.write .controlWord 0xFFFFFE04] ∧
    wordAt (result (exec (.tick (goodCycle 0x003 0xFFEE0000) true) receivingDesc)).desc 17 = 0xFFEE0000 := by decide +kernel

/-- V-TMO: the timeout is tested before the status word, and the status word's error before the skip. -/
theorem test_timeout :
    (result (exec (.tick (goodCycle 0x0F 0) true) { waiting .write 0 false 0x0F 0x0F with timeoutCtr := 3 })).failReason =
      .cause .timeout ∧
    (result (exec (.tick (goodCycle 0xC00F 0) true) { waiting .write 0 false 0x0F 0x0F with timeoutCtr := 1 })).errorCode =
      0xC0 ∧
    (result (exec (.tick (goodCycle 0 0) true) { waiting .write 0 false 0x0F 0x0F with timeoutCtr := 0 })).timeoutCtr = 1 :=
  by decide +kernel

/-- V-SW: 0x00010402 in CurveInfo with toggle 0 is an error with code 4; 0x00010002 matches nothing. -/
theorem test_classify :
    (result (exec (.classify 0x00010402) sendingDesc)).answer = .sw .err ∧
    (result (exec (.classify 0x00010002) sendingDesc)).answer = .sw .nomatch ∧
    (result (exec (.classify 0x00000403) sendingDesc)).answer = .sw .nomatch := by decide +kernel

/-- V-TX, V-RX, V-APPEND. -/
theorem test_serializer :
    (result (exec (.txNext true) { sendingDesc with txPos := 18 })).underflowFlag = true ∧
    (result (exec (.rxPush 5) { receivingDesc with rxCount := 18 })).failReason = .cause .overflow ∧
    wordAt (result (exec .spAppend pendingSp)).sp 7 = 0x3039 ∧ (result (exec .spAppend pendingSp)).spCount = 8 := by
  decide +kernel

/-- 60_exceptions R325: the host reads DESC, SP and the registers of a read session in flight. -/
theorem test_host_reads :
    (result (execHostRead (.descWord 1) writing)).answer = .word 0x00040003 ∧
    (result (execHostRead (.setpoint 7) (result (exec .spAppend pendingSp)))).answer = .word 0x3039 ∧
    (result (execHostRead .dataRegs pendingSp)).answer =
      .data ⟨7, .fromDesc, 0, 0, .toPending, 18, 0, 0x3039, true⟩ := by decide +kernel

/-- 70_reset_and_hazards R350: a STEP with no step due does nothing; a tick without the grant, LOCK.ACQ, STEP and LOCK.REL
run one step, and a second STEP none. -/
theorem test_one_step_per_tick :
    exec (.step (goodCycle 0 0)) writing = .next writing ∧
    exec .lockRel (result (exec (.step (goodCycle 0 0)) (result (exec (.lockAcq true)
      (result (exec (.tick (goodCycle 0 0) false) writing)))))) = exec (.tick (goodCycle 0 0) true) writing ∧
    (result (exec (.step (goodCycle 0 0)) (result (exec (.step (goodCycle 0 0)) { writing with lock := .held })))).log =
      [.deleteCurveReq 1, .write .controlWord 0x0000F000] := ⟨rfl, rfl, by decide +kernel⟩

/-- A word of the table is fetched and run: 0x0F moves a session that waits for it. -/
theorem test_fetch_word :
    (result (step ((waiting .write 0 false 0x0F 0x0F).withFetchWord 32 0x0F))).state = stSendCommand ∧
    (result (step ((waiting .write 0 false 0x0F 0x0F).withFetchWord 32 0x0F))).script = [] := by decide +kernel

/-! ### A state and operands for the hypotheses of each statement, a case for each clause -/

theorem test_witness_base_kept : Kept base := by constructor <;> decide +kernel
theorem test_witness_base_session : Session base := by
  constructor
  case done => exact fun h => absurd h (by decide)
  all_goals decide +kernel
theorem test_witness_writing_kept : Kept writing := by constructor <;> decide +kernel
theorem test_witness_writing_session : Session writing := by
  constructor
  case done => exact fun h => absurd h (by decide +kernel)
  all_goals decide +kernel
theorem test_witness_reading_kept : Kept reading := by constructor <;> decide +kernel
theorem test_witness_reading_session : Session reading := by
  constructor
  case done => exact fun h => absurd h (by decide +kernel)
  all_goals decide +kernel

/-- Every refused or accepted event of a session comes from a script: a tick at its front. -/
def scripted (i : Instr) (s : State) : State := { s with script := encode i }
/-- A cycle in which the write of the control word fails. -/
def controlFails : Cycle := { goodCycle 0x003 0xFFEE0000 with controlWr := false }

theorem test_witness_DecodeGivesBackWhatWasEncoded :
    (Instr.swCurveinfoErr 0 5 true).wf = true ∧ (Instr.swSetpointsErr 1 4 false).wf = true ∧
    (Instr.swInitNomatch 0x0001000F).wf = true ∧ (Instr.setName (some [])).wf = true := by decide
theorem test_witness_DecodedOperationIsWellFormed :
    decode [17, 0x02, 0x05, 0, 0] = .ok (.swCurveinfoErr 0 5 false, []) := by decide
theorem test_witness_BareWordDecodesToARowWithItsBits :
    decodeBare 0x00010402 = some (.swCurveinfoErr 1 4 false) ∧ decodeBare 0xFFFC0046 = some (.bw 16383 true) := by
  decide
theorem test_witness_StepRunsTheDecodedEvent :
    decode (scripted .tickIdle base).script = .ok (.tickIdle, []) ∧
    decodeEvent (encodeHost (.setpointCount 8)) = .ok (.host (.setpointCount 8), []) ∧
    decodeEvent (encodeRead (.setpoint 7)) = .ok (.read (.setpoint 7), []) ∧
    decodeEvent [75] = .error (.unknownTag 75) := by decide
theorem test_witness_ControlWordRowsEmitTheirWord : prm.wf = true ∧ base.state = stInit ∧
    ((waiting .write 1 true 1 1).toggle = true ∧ (0x10 : BitVec 24).toNat = prm.baseModeWrite) ∧
    ((waiting .read 1 true 1 1).dir = .read ∧ (0xFFFFFC : BitVec 24).toNat = prm.baseModeRead) ∧
    (sendingDesc.state = stCurveInfo ∧ sendingDesc.dir = .write ∧ (0x11 : BitVec 24).toNat = prm.baseModeWrite + 1) ∧
    (receivingDesc.dir = .read ∧ (0xFFFFFD : BitVec 24).toNat = prm.baseModeRead + 1) ∧
    (sendingSp.state = stSetpoints ∧ sendingSp.dir = .write ∧ (0x12 : BitVec 24).toNat = prm.baseModeWrite + 2) ∧
    (pendingSp.state = stSetpoints ∧ pendingSp.dir = .read ∧ (0xFFFFFE : BitVec 24).toNat = prm.baseModeRead + 2) := by
  decide +kernel
theorem test_witness_OutgoingWordRowsEmit : ((waiting .write 1 true 1 1).state = stSendCommand ∧
      (waiting .write 1 true 1 1).dir = .write ∧
      (3 : BitVec 14).toNat = (rd16 (waiting .write 1 true 1 1).desc 4).toNat % 16384) ∧
    (sendingDesc.dir = .write ∧ sendingDesc.txPos.toNat < sendingDesc.txLen.toNat ∧ sendingDesc.state = stCurveInfo ∧
      sendingDesc.txSrc = .fromDesc ∧ sendingDesc.txPos.toNat < descWords) ∧
    (sendingSp.dir = .write ∧ sendingSp.txPos.toNat < sendingSp.txLen.toNat ∧ sendingSp.state = stSetpoints ∧
      sendingSp.txSrc = .fromSp ∧ sendingSp.txPos.toNat < sendingSp.params.maxSetpoints) := by decide +kernel
theorem test_witness_DataWordsAreReceived : (Memory.wf receivingDesc.desc = true ∧ receivingDesc.dir = .read ∧
      receivingDesc.bufferResponse = true ∧ receivingDesc.rxTarget = .toDesc ∧
      receivingDesc.rxCount.toNat < receivingDesc.rxCap.toNat ∧ receivingDesc.rxCount.toNat < descWords) ∧
    (Memory.wf pendingSp.desc = true ∧ pendingSp.dir = .read ∧ pendingSp.bufferResponse = true ∧
      pendingSp.rxTarget = .toPending) := by decide +kernel
theorem test_witness_StatusAdvanceRowsAdvance :
    ((waiting .write 0 false 0x0F 0x0F).waitingForStatus = true ∧ (waiting .write 0 false 0x0F 0x0F).state = stInit ∧
      (waiting .write 0 false 0x0F 0x0F).nextModeStatus = 0x0F) ∧
    ((waiting .write 1 true 1 1).state = stSendCommand ∧ (waiting .write 1 true 1 1).nextModeStatus = 0x01) ∧
    (receivingDesc.state = stCurveInfo ∧ receivingDesc.nextModeStatus = 0x02 + bit 32 true) ∧
    (pendingSp.state = stSetpoints ∧ pendingSp.nextModeStatus = 0x04 + bit 32 false) := by decide +kernel
theorem test_witness_StatusErrorRowsFailWithTheCode : (4 : Byte) ≠ 0 ∧
    ((waiting .write 0 false 0x0F 0x0F).state = stInit ∧ (waiting .write 0 false 0x0F 0x0F).expectedStatus = 0x0F) ∧
    ((waiting .write 1 true 1 1).state = stSendCommand ∧ (waiting .write 1 true 1 1).expectedStatus = 0x01) ∧
    (¬ ((1 : Half) = 0 ∧ (4 : Byte) = 4) ∧ receivingDesc.waitingForStatus = true ∧ receivingDesc.state = stCurveInfo ∧
      receivingDesc.nextModeStatus = 0x02 + bit 32 true ∧ receivingDesc.expectedStatus = 0x402 + bit 32 true) ∧
    (pendingSp.waitingForStatus = true ∧ pendingSp.state = stSetpoints ∧
      pendingSp.nextModeStatus = 0x04 + bit 32 false ∧ pendingSp.expectedStatus = 0x404 + bit 32 false) := by
  decide +kernel
theorem test_witness_ClassesOfEveryStatusWord : ((0x0F : Word) = 0x0F ∨ (0x0F : Word) = 0x01) ∧
    (((0x02 : Word) = 0x02 ∨ (0x02 : Word) = 0x04) ∧ (0x10402 : Word).toNat ≠ (0x02 : Word).toNat + 0x400 + false.toNat ∧
      (0x403 : Word).toNat % 256 ≠ (0x02 : Word).toNat + false.toNat) ∧
    (((0x04 : Word) = 0x02 ∨ (0x04 : Word) = 0x04) ∧ (0x10005 : Word).toNat % 256 = (0x04 : Word).toNat + true.toNat) := by
  decide
theorem test_witness_PackWritesTheRecord : Memory.wf writing.desc = true := by decide +kernel
theorem test_witness_RecordReplacesDesc : (Memory.wf base.desc = true ∧ base.xferState ≠ .busy) ∧
    (Memory.wf writing.desc = true ∧ writing.xferState = .busy) := by decide +kernel
theorem test_witness_CodecLaws : Memory.wf writing.desc = true ∧ unpacked writing.desc = unpacked sendingSp.desc := by
  decide +kernel
theorem test_witness_HostViewsAnswerWithoutEffect : (7 : Half).toNat < base.params.maxSetpoints ∧
    base.params.maxSetpoints ≤ (8 : Half).toNat := by decide
theorem test_witness_SetNameIsTheRule : 22 ≤ (List.replicate 22 (0x78 : Byte)).length ∧
    ((List.replicate 21 (0x78 : Byte)).length < 22 ∧ base.xferState ≠ .busy) ∧ writing.xferState = .busy := by
  decide +kernel
theorem test_witness_DurationConversionsAsTheRules : ((0 : Word) = 0 ∨ (3 : Half) = 0) ∧
    ((150000 : Word) ≠ 0 ∧ (3 : Half) ≠ 0) ∧
    (fFinite 0x40E4F8B588E368F1 = true ∧ fLe lmMaxCurveTime (fMul (fOfNat 1) 0x40E4F8B588E368F1) = true) ∧
    (fFinite 0x40E4F8B588E15012 = true ∧ fLe (fMul (fOfNat 1) 0x40E4F8B588E15012) (fOfNat 0) = false ∧
      fLe lmMaxCurveTime (fMul (fOfNat 1) 0x40E4F8B588E15012) = false ∧
      fFloor (fMul (fMul (fOfNat 1) 0x40E4F8B588E15012) (fOfNat 100000)) < 2 ^ 32) ∧
    fFinite 0x7FF8000000000000 = false := by decide +kernel
theorem test_witness_PositionEncodesAsTheRule : (Memory.wf base.sp = true ∧ fFinite 0x3FF3C083126E978D = true ∧
      fFinite (fMul 0x3FF3C083126E978D positionScale) = true ∧
      -(2 ^ 31) ≤ posRound base.params (fMul 0x3FF3C083126E978D positionScale) ∧
      posRound base.params (fMul 0x3FF3C083126E978D positionScale) < 2 ^ 31) ∧
    (base.xferState ≠ .busy ∧ (7 : Half).toNat < base.params.maxSetpoints) ∧
    (posRound writing.params (fMul 0x3FF3C083126E978D positionScale) = 12345 ∧ writing.xferState = .busy) ∧
    (fFinite 0x7FF0000000000000 = false ∧ fFinite (fMul 0x7FEFFFFFFFFFFFFF positionScale) = false ∧
      posRound base.params (fMul 0xC12EF0E9999999AA positionScale) < -(2 ^ 31) ∧
      2 ^ 31 ≤ posRound base.params (fMul 0x412EF0E999999999 positionScale)) := by
  decide +kernel
/-- A read session that ended with success and three setpoints. -/
def received : State := { reading with xferState := .done, state := stFinished, message := .done, spCount := 3 }
theorem test_witness_ProjectPublishesTruncatedPoints : received.xferState = .done ∧ received.result = .success ∧
    received.dir = .read ∧ received.spCount.toNat ≤ received.params.maxSetpoints := by decide +kernel
theorem test_witness_WriteRequestAcceptedStartsASession : Memory.wf base.desc = true ∧ base.xferState ≠ .busy ∧
    1 ≤ (100 : Half).toNat ∧ (100 : Half).toNat ≤ base.params.maxCurveId ∧ (8 : Half) ≠ 0 ∧
    (8 : Half).toNat ≤ base.params.maxSetpoints := by decide
theorem test_witness_ReadRequestAcceptedStartsASession : Memory.wf received.desc = true ∧ received.xferState ≠ .busy ∧
    1 ≤ (1 : Half).toNat ∧ (1 : Half).toNat ≤ received.params.maxCurveId := by decide +kernel
theorem test_witness_RejectedRequestsChangeNoRegister : writing.xferState = .busy ∧
    (base.xferState ≠ .busy ∧ ((101 : Half) = 0 ∨ base.params.maxCurveId < (101 : Half).toNat)) ∧
    ((100 : Half) ≠ 0 ∧ (100 : Half).toNat ≤ base.params.maxCurveId ∧ ((0 : Half) = 0 ∨ true = false)) ∧
    ((9 : Half) ≠ 0 ∧ base.params.maxSetpoints < (9 : Half).toNat) ∧
    ((100 : Half) ≠ 0 ∧ (8 : Half) ≠ 0 ∧ true = true ∧ (8 : Half).toNat ≤ base.params.maxSetpoints) := by decide +kernel
theorem test_witness_HostWritesStoreOnlyWhileNotBusy : writing.xferState = .busy ∧
    (Memory.wf base.sp = true ∧ base.xferState ≠ .busy ∧ (7 : Half).toNat < base.params.maxSetpoints ∧
      (8 : Half).toNat ≤ base.params.maxSetpoints) := by decide +kernel
theorem test_witness_ToggleRowsAndTheirArms : (waiting .write 1 true 1 1).state = stSendCommand ∧
    sendingDesc.state = stCurveInfo ∧ pendingSp.state = stSetpoints := by decide +kernel
theorem test_witness_NextWordIsSentOrUnderflows :
    (sendingDesc.txPos.toNat < sendingDesc.txLen.toNat ∧ sendingDesc.txSrc = .fromDesc ∧
      sendingDesc.txPos.toNat < descWords) ∧
    (sendingSp.txPos.toNat < sendingSp.txLen.toNat ∧ sendingSp.txSrc = .fromSp ∧
      sendingSp.txPos.toNat < sendingSp.params.maxSetpoints) ∧ base.txLen.toNat ≤ base.txPos.toNat := by decide +kernel
theorem test_witness_ReceivedWordIsStoredOrOverflows :
    (Memory.wf receivingDesc.desc = true ∧ receivingDesc.bufferResponse = true ∧ receivingDesc.rxTarget = .toDesc ∧
      receivingDesc.rxCount.toNat < receivingDesc.rxCap.toNat ∧ receivingDesc.rxCount.toNat < descWords) ∧
    ({ receivingDesc with rxCount := 18 } : State).rxCap.toNat ≤ ({ receivingDesc with rxCount := 18 } : State).rxCount.toNat ∧
    (pendingSp.bufferResponse = true ∧ pendingSp.rxTarget = .toPending) ∧ base.bufferResponse = false := by decide +kernel
theorem test_witness_PendingSetpointIsAppended : (Memory.wf pendingSp.sp = true ∧ pendingSp.rxPendingValid = true ∧
      pendingSp.spCount.toNat < pendingSp.params.maxSetpoints) ∧
    pendingSp.params.maxSetpoints ≤ ({ pendingSp with spCount := 8 } : State).spCount.toNat ∧
    base.rxPendingValid = false := by decide +kernel
theorem test_witness_TimerCountsArmsAndExpires : sendingDesc.waitingForStatus = true ∧ base.waitingForStatus = false ∧
    sendingDesc.params.timeoutCycles < ({ sendingDesc with timeoutCtr := 4 } : State).timeoutCtr.toNat ∧
    ({ sendingDesc with timeoutCtr := 3 } : State).timeoutCtr.toNat ≤ sendingDesc.params.timeoutCycles := by decide +kernel
theorem test_witness_DeviceErrorFailsWithTheCode : ((0x10402 : Word) ≠ sendingDesc.nextModeStatus ∧
      (0x10402 : Word) ≠ sendingDesc.expectedStatus ∧
      (0x10402 : Word).toNat % 256 = sendingDesc.expectedStatus.toNat % 256 ∧ (0x10402 : Word).toNat / 256 % 256 ≠ 0) ∧
    (0x402 : Word) = sendingDesc.expectedStatus := by decide +kernel
theorem test_witness_InitArmIsTheRule : (writing.state = stInit ∧ writing.dir = .write) ∧
    (reading.state = stInit ∧ reading.dir = .read) := by decide +kernel
theorem test_witness_SendCommandArmIsTheRule : (waiting .read 1 true 1 1).state = stSendCommand := by decide +kernel
theorem test_witness_CurveInfoArmIsTheRule : (sendingDesc.state = stCurveInfo ∧ sendingDesc.changedMode = false) ∧
    (({ sendingDesc with changedMode := true } : State).changedMode = true ∧ sendingDesc.dir = .write) ∧
    (({ receivingDesc with changedMode := true } : State).state = stCurveInfo ∧ receivingDesc.dir = .read) := by
  decide +kernel
theorem test_witness_SetpointsArmIsTheRule : (sendingSp.state = stSetpoints ∧ Memory.wf sendingSp.sp = true ∧
      sendingSp.dir = .write ∧ sendingSp.changedMode = false ∧
      ({ sendingSp with changedMode := true } : State).changedMode = true) ∧
    (pendingSp.state = stSetpoints ∧ Memory.wf pendingSp.sp = true ∧ pendingSp.dir = .read ∧ pendingSp.rxCount = 18 ∧
      ({ pendingSp with changedMode := true, rxCount := 17 } : State).rxCount ≠ 18 ∧ pendingSp.changedMode = false ∧
      pendingSp.rxPendingValid = true ∧ pendingSp.spCount.toNat < pendingSp.params.maxSetpoints) ∧
    pendingSp.params.maxSetpoints ≤ ({ pendingSp with spCount := 8 } : State).spCount.toNat ∧
    ({ pendingSp with rxPendingValid := false } : State).rxPendingValid = false := by decide +kernel
/-- In Finished of a read session, the last setpoint pending. -/
def finishing : State := { pendingSp with state := stFinished }
theorem test_witness_FinishedArmIsTheRule : (finishing.state = stFinished ∧ Memory.wf finishing.sp = true ∧
      finishing.dir = .read ∧ finishing.rxPendingValid = true ∧
      finishing.spCount.toNat < finishing.params.maxSetpoints) ∧
    finishing.params.maxSetpoints ≤ ({ finishing with spCount := 8 } : State).spCount.toNat ∧
    ({ sendingSp with state := stFinished } : State).dir = .write := by decide +kernel
theorem test_witness_UnknownStateFailsTheSession : 4 < ({ base with state := 5 } : State).state.toNat := by decide
theorem test_witness_FirstStepOfASession : writing.xferState = .busy ∧ writing.state = stInit ∧
    writing.waitingForStatus = false ∧ writing.bufferResponse = false ∧ (goodCycle 0 0).statusOk = true ∧
    (goodCycle 0 0).valueOk = true ∧ (goodCycle 0 0).controlWr = true ∧ writing.lock = .free ∧
    ({ writing with lock := .held } : State).lock = .held := by decide +kernel
theorem test_witness_SteadyAnswerMovesOneWord_writing :
    (sendingDesc.params.wf = true ∧ sendingDesc.xferState = .busy ∧ sendingDesc.lock = .free ∧ sendingDesc.dir = .write ∧
      sendingDesc.waitingForStatus = true ∧ sendingDesc.bufferResponse = false ∧
      sendingDesc.timeoutCtr.toNat < sendingDesc.params.timeoutCycles ∧
      sendingDesc.txPos.toNat < sendingDesc.txLen.toNat ∧ sendingDesc.state = stCurveInfo ∧
      sendingDesc.nextModeStatus = 0x002 + bit 32 sendingDesc.toggle ∧
      sendingDesc.expectedStatus = 0x402 + bit 32 sendingDesc.toggle ∧ sendingDesc.txSrc = .fromDesc ∧
      sendingDesc.txPos.toNat < descWords) ∧
    (sendingSp.params.wf = true ∧ sendingSp.xferState = .busy ∧ sendingSp.lock = .free ∧ sendingSp.dir = .write ∧
      sendingSp.waitingForStatus = true ∧ sendingSp.bufferResponse = false ∧
      sendingSp.timeoutCtr.toNat < sendingSp.params.timeoutCycles ∧
      sendingSp.txPos.toNat < sendingSp.txLen.toNat ∧ sendingSp.state = stSetpoints ∧
      sendingSp.nextModeStatus = 0x004 + bit 32 sendingSp.toggle ∧
      sendingSp.expectedStatus = 0x404 + bit 32 sendingSp.toggle ∧ sendingSp.txSrc = .fromSp ∧
      sendingSp.txPos.toNat < sendingSp.params.maxSetpoints) := by decide +kernel
/-- In Setpoints of a read session, the sixth setpoint received, room for two. -/
def receivingSp : State := { pendingSp with rxPendingValid := false, spCount := 6 }
theorem test_witness_SteadyAnswerMovesOneWord_reading :
    (receivingDesc.params.wf = true ∧ receivingDesc.xferState = .busy ∧ receivingDesc.lock = .free ∧
      receivingDesc.dir = .read ∧ receivingDesc.waitingForStatus = true ∧ receivingDesc.bufferResponse = true ∧
      receivingDesc.timeoutCtr.toNat < receivingDesc.params.timeoutCycles ∧ Memory.wf receivingDesc.desc = true ∧
      Memory.wf receivingDesc.sp = true ∧ receivingDesc.state = stCurveInfo ∧
      receivingDesc.nextModeStatus = 0x002 + bit 32 receivingDesc.toggle ∧
      receivingDesc.expectedStatus = 0x402 + bit 32 receivingDesc.toggle ∧ receivingDesc.rxTarget = .toDesc ∧
      receivingDesc.rxCount.toNat < receivingDesc.rxCap.toNat ∧ receivingDesc.rxCount.toNat < descWords) ∧
    (receivingSp.params.wf = true ∧ receivingSp.xferState = .busy ∧ receivingSp.lock = .free ∧
      receivingSp.dir = .read ∧ receivingSp.waitingForStatus = true ∧ receivingSp.bufferResponse = true ∧
      receivingSp.timeoutCtr.toNat < receivingSp.params.timeoutCycles ∧ Memory.wf receivingSp.desc = true ∧
      Memory.wf receivingSp.sp = true ∧ receivingSp.state = stSetpoints ∧
      receivingSp.nextModeStatus = 0x004 + bit 32 receivingSp.toggle ∧
      receivingSp.expectedStatus = 0x404 + bit 32 receivingSp.toggle ∧ receivingSp.rxTarget = .toPending ∧
      receivingSp.spCount.toNat < receivingSp.params.maxSetpoints) := by decide +kernel
theorem test_witness_SkippedAndExpiredLooks : sendingDesc.xferState = .busy ∧ sendingDesc.lock = .free ∧ sendingDesc.waitingForStatus = true ∧
    readsOk (goodCycle 0x403 0) ∧
    (({ sendingDesc with timeoutCtr := 2 } : State).timeoutCtr.toNat < sendingDesc.params.timeoutCycles ∧
      sendingDesc.params.timeoutCycles < 2 ^ 32 ∧ classify 0x403 sendingDesc = .nomatch) ∧
    (sendingDesc.params.timeoutCycles ≤ ({ sendingDesc with timeoutCtr := 3 } : State).timeoutCtr.toNat ∧
      ({ sendingDesc with timeoutCtr := 3 } : State).timeoutCtr.toNat + 1 < 2 ^ 32) :=
  ⟨by decide +kernel, by decide +kernel, by decide +kernel, ⟨rfl, rfl⟩, by decide +kernel, by decide +kernel⟩
/-- The tick whose control write fails, the same tick with its writes ok, and the events of the latter. -/
theorem test_witness_TransportFailureChangesNoRegister :
    receivingDesc.lock = .free ∧ ({ controlFails with statusOk := false } : Cycle).statusOk = false ∧
    exec (.tick (writesOk controlFails) true) receivingDesc =
      .next (result (exec (.tick (writesOk controlFails) true) receivingDesc)) ∧
    added receivingDesc.log (result (exec (.tick (writesOk controlFails) true) receivingDesc)).log =
      [.write .controlWord 0xFFFFFE04] ∧ passes controlFails (.write .controlWord 0xFFFFFE04) = false :=
  ⟨by decide +kernel, rfl, rfl, by decide +kernel, rfl⟩
theorem test_witness_StepMovesStateAsTheTable : brings (goodCycle 0x003 7) (.tick (goodCycle 0x003 7) true) ∧ receivingDesc.xferState = .busy ∧
    exec (.tick (goodCycle 0x003 7) true) receivingDesc = .next (result (exec (.tick (goodCycle 0x003 7) true) receivingDesc)) :=
  ⟨.inr ⟨true, rfl⟩, by decide +kernel, rfl⟩
theorem test_witness_StepAccessesEachEndpointOnceInOrder :
    brings (goodCycle 0x402 7) (.tick (goodCycle 0x402 7) true) ∧ brings (goodCycle 0xC02 7) (.tick (goodCycle 0xC02 7) true) ∧
    exec (.tick (goodCycle 0x402 7) true) sendingDesc = .next (result (exec (.tick (goodCycle 0x402 7) true) sendingDesc)) ∧
    (exec (.tick (goodCycle 0xC02 7) true) sendingDesc = .next (result (exec (.tick (goodCycle 0xC02 7) true) sendingDesc)) ∧
      sendingDesc.xferState = .busy ∧ (result (exec (.tick (goodCycle 0xC02 7) true) sendingDesc)).xferState = .done ∧
      (result (exec (.tick (goodCycle 0xC02 7) true) sendingDesc)).result = .failure) :=
  ⟨.inr ⟨true, rfl⟩, .inr ⟨true, rfl⟩, rfl, rfl, by decide +kernel, by decide +kernel, by decide +kernel⟩
theorem test_witness_TickRunsOneStepUnderTheLock : (writing.xferState = .busy ∧ writing.lock = .free) ∧
    ({ writing with lock := .waiting } : State).lock ≠ .free ∧ ({ writing with lock := .waiting } : State).lock = .waiting ∧
    ({ writing with lock := .stepped } : State).lock = .stepped ∧ writing.lock ≠ .waiting ∧ writing.lock ≠ .stepped ∧
    exec (.tick (goodCycle 0 0) true) writing = .next (result (exec (.tick (goodCycle 0 0) true) writing)) :=
  ⟨by decide +kernel, by decide +kernel, by decide +kernel, by decide +kernel, by decide +kernel, by decide +kernel, rfl⟩
/-- A session whose tick waits for the lock, and one that holds it. -/
theorem test_witness_OneStepPerTick : writing.xferState = .busy ∧ writing.lock = .free ∧ writing.lock ≠ .held ∧
    exec (.step (goodCycle 0 0)) { writing with lock := .held } =
      .next (result (exec (.step (goodCycle 0 0)) { writing with lock := .held })) ∧
    (∀ e b, Instr.lockAcq true ≠ .tick e b) ∧
    (result (exec (.lockAcq true) { writing with lock := .waiting })).lock = .held :=
  ⟨by decide +kernel, by decide +kernel, by decide +kernel, rfl, fun _ _ => nofun, by decide +kernel⟩
theorem test_witness_TickDoesNothingUnlessBusy : base.xferState ≠ .busy ∧ received.xferState ≠ .busy := by decide +kernel
/-- The last answer of a read session in CurveInfo, as the front of a script. -/
def ticking : State := scripted (.tick (goodCycle 0x003 7) true) { receivingDesc with dir := .read }
theorem test_witness_ticking_kept : Kept ticking := by constructor <;> decide +kernel
theorem test_witness_ticking_session : Session ticking := by
  constructor
  case done => exact fun h => absurd h (by decide +kernel)
  all_goals decide +kernel
theorem test_witness_EveryStepKeepsTheInvariant : Kept ticking ∧ step ticking = .next (result (step ticking)) ∧
    (result (step ticking)).state = stSetpoints := ⟨test_witness_ticking_kept, rfl, by decide +kernel⟩
theorem test_witness_OutsideEventsKeepTheSession : Kept ticking ∧ Session ticking ∧ nextOutside ticking = true ∧
    step ticking = .next (result (step ticking)) :=
  ⟨test_witness_ticking_kept, test_witness_ticking_session, by decide +kernel, rfl⟩
/-- The fault an operation ends in, if it does. -/
def faultOf (x : Host.Outcome State Fault Refusal) : Option Fault :=
  match x with
  | .next _ => none
  | .fault e => some e
  | .refused _ => none
/-- The one fault under the invariant, and one of the refusals. -/
theorem test_witness_StopsAreOnlyTheSpecsOwn : Kept base ∧ faultOf (exec (.posEncode 8 0) base) = some .spAddress ∧
    exec (.xlenEncode 1 0x7FF0000000000000) base = .refused .xlenDomain :=
  ⟨test_witness_base_kept, by decide +kernel, rfl⟩
theorem test_witness_StaleAnswersMatchNothing : brings (goodCycle 0x003 7) (.tick (goodCycle 0x003 7) true) ∧ Session ticking ∧ ticking.xferState = .busy ∧
    ticking.waitingForStatus = true ∧
    exec (.tick (goodCycle 0x003 7) true) ticking = .next (result (exec (.tick (goodCycle 0x003 7) true) ticking)) ∧
    added ticking.log (result (exec (.tick (goodCycle 0x003 7) true) ticking)).log = [.write .controlWord 0xFFFFFE04] ∧
    (0xC503 : Word).toNat % 256 = ticking.expectedStatus.toNat % 256 :=
  ⟨.inr ⟨true, rfl⟩, test_witness_ticking_session, by decide +kernel, by decide +kernel, rfl, by decide +kernel,
    by decide +kernel⟩
theorem test_witness_WriteSessionNeverTouchesTheCurve : Session writing ∧ writing.xferState = .busy ∧
    writing.dir = .write ∧ outside (.tick (goodCycle 0 0) true) = true ∧ Instr.tick (goodCycle 0 0) true ≠ .reset ∧
    exec (.tick (goodCycle 0 0) true) writing = .next (result (exec (.tick (goodCycle 0 0) true) writing)) :=
  ⟨test_witness_writing_session, by decide +kernel, by decide +kernel, rfl, by decide, rfl⟩
theorem test_witness_StoredWordsReadBack : Memory.wf writing.desc = true ∧ Memory.wf sendingSp.sp = true ∧
    ∀ a, readByte writing.desc a = readByte sendingDesc.desc a := ⟨by decide +kernel, by decide +kernel, fun _ => rfl⟩
theorem test_witness_WriteSessionDeliversTheCurve : Kept writing ∧ Session writing ∧ writing.xferState = .busy ∧
    writing.lock = .free ∧ writing.dir = .write ∧ writing.state = stInit ∧ writing.waitingForStatus = false ∧
    1 ≤ writing.params.timeoutCycles :=
  ⟨test_witness_writing_kept, test_witness_writing_session, by decide +kernel, by decide +kernel, by decide +kernel,
    by decide +kernel, by decide +kernel, by decide +kernel⟩
theorem test_witness_ReadSessionReceivesTheCurve : Kept reading ∧ Session reading ∧ reading.xferState = .busy ∧
    reading.lock = .free ∧ reading.dir = .read ∧ reading.state = stInit ∧ reading.waitingForStatus = false ∧
    1 ≤ reading.params.timeoutCycles ∧ 1 ≤ ([5] : List Word).length ∧
    ([5] : List Word).length ≤ reading.params.maxSetpoints :=
  ⟨test_witness_reading_kept, test_witness_reading_session, by decide +kernel, by decide +kernel, by decide +kernel, by decide +kernel,
    by decide +kernel, by decide +kernel, by decide, by decide +kernel⟩

end Sys2Proof.Tests
end

section
/-! The invariant `Kept`: it holds after reset, and every event of the script keeps it. First the updates of the state
one by one, then the parts of a step, then the operations, and last the step of the machine. -/

namespace Sys2Proof.Machine

/-! ### Facts about the operands -/

/-- A counter below a bound steps to at most the bound, also where it wraps. -/
theorem toNat_succ_le {w n : Nat} {x : BitVec w} (h : x.toNat < n) : (x + 1).toNat ≤ n := by
  have h1 : (1 : BitVec w).toNat ≤ 1 := by simpa using Nat.mod_le 1 (2 ^ w)
  calc (x + 1).toNat ≤ x.toNat + (1 : BitVec w).toNat := by rw [BitVec.toNat_add]; exact Nat.mod_le _ _
    _ ≤ n := by omega

/-- The fields of a record take 70 bytes; the padding is the rest of DESC (30_encoding R110). -/
theorem fields_bytes_length (f : Fields) : f.bytes.length = 70 := by
  have hw : (f.wizardParams.toList.flatMap le32).length = 28 := by
    simp [List.length_flatMap]
  simp [Fields.bytes, hw]

/-- What an accepted write request has passed (42_requests R176). -/
theorem checkRequest_write_accepted_iff {id count : Half} {xlenOk : Bool} {s : State} :
    checkRequest (.write id count xlenOk) s = .accepted ↔
      s.xferState ≠ .busy ∧ 1 ≤ id.toNat ∧ id.toNat ≤ s.params.maxCurveId ∧ count ≠ 0 ∧ xlenOk = true ∧
        count.toNat ≤ s.params.maxSetpoints := by
  simp only [checkRequest]
  split_ifs with hbusy hid hdur hcount
  · simp [hbusy]
  · exact iff_of_false nofun fun ⟨_, hlow, hhigh, _⟩ => by omega
  · exact iff_of_false nofun fun ⟨_, _, _, hne, hok, _⟩ => hdur.elim hne (by simp [hok])
  · exact iff_of_false nofun fun ⟨_, _, _, _, _, hmax⟩ => by omega
  · rw [not_or, Bool.not_eq_false] at hdur
    exact iff_of_true rfl ⟨hbusy, by omega, by omega, hdur.1, hdur.2, by omega⟩

section
variable {s : State}

/-! ### Updates that reach no register of the invariant -/

theorem kept_withLog (l : List OutEvent) (h : Kept s) : Kept { s with log := l } := { h with }
theorem kept_withScript (bs : List Byte) (h : Kept s) : Kept { s with script := bs } := { h with }
theorem kept_withHost (f : HostFields) (h : Kept s) : Kept { s with host := f } := { h with }
theorem kept_withCounter (n : Word) (h : Kept s) : Kept { s with timeoutCtr := n } := { h with }
theorem kept_emit (e : OutEvent) (h : Kept s) : Kept (emit e s) := { h with }
theorem kept_answering (a : Answer) (h : Kept s) : Kept (answering a s) := { h with }
theorem kept_setLock (l : Lock) (h : Kept s) : Kept (setLock l s) := { h with }
theorem kept_setToggle (t : Bool) (h : Kept s) : Kept (setToggle t s) := { h with }
theorem kept_setCodes (adv steady : Word) (h : Kept s) : Kept (setCodes adv steady s) := { h with }
theorem kept_armResponse (h : Kept s) : Kept (armResponse s) := { h with }
theorem kept_advance (h : Kept s) : Kept (advance s) := { h with }
theorem kept_clearChanged (h : Kept s) : Kept (clearChanged s) := { h with }
theorem kept_armWait (h : Kept s) : Kept (armWait s) := { h with }
theorem kept_armRxSp (h : Kept s) : Kept (armRxSp s) := { h with }
theorem kept_reportSuccess (h : Kept s) : Kept (reportSuccess s) := { h with }

theorem kept_countLook (h : Kept s) : Kept (countLook s) := by
  unfold countLook
  split
  · exact kept_withCounter _ h
  · exact h

theorem kept_askLock (granted : Bool) (h : Kept s) : Kept (askLock granted s) := by
  obtain ⟨-, -, -, e⟩ | ⟨-, e⟩ := askLock_cases granted s <;> rw [e]
  · exact kept_setLock _ h
  · exact h

theorem kept_giveBack (h : Kept s) : Kept (giveBack s) := by
  obtain ⟨-, e⟩ | ⟨-, e⟩ := giveBack_cases s <;> rw [e]
  · exact kept_setLock _ h
  · exact h

/-! ### Updates of the registers of the invariant -/

/-- Bytes written inside DESC (10_state R32). -/
theorem kept_writeDesc {a : Nat} {vs : List Byte} (h : Kept s) (ha : a + vs.length ≤ descBytes) :
    Kept { s with desc := writeBytes s.desc a vs } :=
  { h with descForm := writeBytes_wf h.descForm, descRange := writeBytes_below ha h.descRange }

/-- A word stored inside SP (10_state R34). -/
theorem kept_storeSp {k : Nat} (w : Word) (h : Kept s) (hk : k < s.params.maxSetpoints) :
    Kept { s with sp := storeWord s.sp k w } :=
  { h with spForm := storeWord_wf h.spForm, spRange := storeWord_below (by dsimp only; omega) h.spRange }

/-- A count in its range (10_state R35). -/
theorem kept_withCount {n : Half} (h : Kept s) (hn : n.toNat ≤ s.params.maxSetpoints) : Kept { s with spCount := n } :=
  { h with count := hn }

/-- A failure records a code only for the device's error (10_state R42, 60_exceptions R310). -/
theorem kept_failed (k : Cause) (code : Byte) (h : Kept s) : Kept (failed k code s) :=
  { h with errorCode := fun hk => if_neg fun e => hk (congrArg FailReason.cause e) }

theorem kept_startSession (h : Kept s) : Kept (startSession s) :=
  { h with
    cursor := Nat.le_refl 0
    descCursor := fun _ => Nat.zero_le _
    spCursor := nofun
    received := Nat.le_refl 0
    capacity := Nat.zero_le _
    errorCode := fun _ => rfl }

theorem kept_loadTxDesc (h : Kept s) : Kept (loadTxDesc s) :=
  { h with cursor := Nat.zero_le _, descCursor := fun _ => Nat.le_refl 18, spCursor := nofun }

theorem kept_loadTxSp (h : Kept s) : Kept (loadTxSp s) :=
  { h with cursor := Nat.zero_le _, descCursor := nofun, spCursor := fun _ => h.count }

theorem kept_armRxDesc (h : Kept s) : Kept (armRxDesc s) :=
  { h with received := Nat.zero_le _, capacity := Nat.le_refl 18 }

theorem kept_packDesc (f : Fields) (h : Kept s) : Kept (packDesc f s) :=
  kept_writeDesc h (by simp [packed, fields_bytes_length, descBytes])

theorem kept_loadWrite {id count : Half} (h : Kept s) (hc : count.toNat ≤ s.params.maxSetpoints) :
    Kept (loadWrite id count s) :=
  kept_packDesc _ { h with count := hc }

theorem kept_loadRead (id : Half) (h : Kept s) : Kept (loadRead id s) :=
  have hcleared : Kept { s with desc := writeBytes s.desc 0 (List.replicate descBytes 0) } :=
    kept_writeDesc h (by simp)
  { hcleared with count := Nat.zero_le _ }

theorem resetRegisters_desc : (resetRegisters s).desc =
    writeBytes [] 0 ((List.range descBytes).map (Config.resetDesc s.resets)) := by
  simp only [resetRegisters]

theorem resetRegisters_sp : (resetRegisters s).sp =
    writeBytes [] 0 ((List.range (4 * s.params.maxSetpoints)).map (Config.resetSp s.resets)) := by
  simp only [resetRegisters]

/-- RESET leaves the parameters and fills both memories inside their ranges, whatever the free values are. -/
theorem kept_resetRegisters (h : Kept s) : Kept (resetRegisters s) where
  params := h.params
  descForm := by rw [resetRegisters_desc]; exact writeBytes_wf rfl
  descRange := by rw [resetRegisters_desc]; exact writeBytes_below (by simp) rfl
  spForm := by rw [resetRegisters_sp]; exact writeBytes_wf rfl
  spRange := by rw [resetRegisters_sp]; exact writeBytes_below (by simp [resetRegisters]) rfl
  count := Nat.zero_le _
  cursor := Nat.zero_le _
  descCursor _ := Nat.zero_le _
  spCursor _ := Nat.zero_le _
  received := Nat.zero_le _
  capacity := Nat.zero_le _
  errorCode _ := rfl

end

/-! ### The parts of a step -/

/-- A part of a step keeps the invariant: the state it leaves meets it, and it accesses no address outside the
memories (20_memory R70). An abandoned step leaves the state before it. -/
def Flow.KeepsInvariant : Flow → Prop
  | .go s => Kept s
  | .ended s => Kept s
  | .abandon _ => True
  | .fault _ => False

/-- An outcome keeps the invariant: a next state meets it. -/
def NextKept (x : Host.Outcome State Fault Refusal) : Prop := ∀ t, x = .next t → Kept t

theorem flow_andThen {x : Flow} {f : State → Flow} (hx : x.KeepsInvariant)
    (hf : ∀ u, Kept u → (f u).KeepsInvariant) : (x.andThen f).KeepsInvariant := by
  cases x with
  | go u => exact hf u hx
  | ended u => exact hx
  | abandon l => trivial
  | fault e => exact hx

section
variable {s : State}

theorem flow_regWrite (p : OutPort) (ok : Bool) (v : Word) (h : Kept s) : (regWrite p ok v s).KeepsInvariant := by
  cases ok with
  | true => exact kept_emit _ h
  | false => trivial

theorem flow_regReads (c : Cycle) (h : Kept s) : (regReads c s).KeepsInvariant := by
  obtain ⟨-, -, e⟩ | ⟨-, e⟩ := regReads_cases c s <;> rw [e]
  · exact h
  · trivial

theorem flow_raiseFail (k : Cause) (code : Byte) (h : Kept s) : (raiseFail k code s).KeepsInvariant :=
  kept_failed k code h

theorem flow_checkExpired (h : Kept s) : (checkExpired s).KeepsInvariant := by
  obtain ⟨-, e⟩ | ⟨-, e⟩ := checkExpired_cases s <;> rw [e]
  · exact kept_failed _ _ h
  · exact h

theorem flow_actOnStatus (sw : Word) (h : Kept s) : (actOnStatus sw s).KeepsInvariant := by
  obtain ⟨-, e⟩ | ⟨-, e⟩ | ⟨-, e⟩ | ⟨-, e⟩ := actOnStatus_cases sw s <;> rw [e]
  · exact kept_advance h
  · exact h
  · exact kept_failed _ _ h
  · exact h

theorem flow_part2 (sw : Word) (h : Kept s) : (part2 sw s).KeepsInvariant := by
  obtain ⟨-, e⟩ | ⟨-, -, e⟩ | ⟨-, -, e⟩ := part2_cases sw s <;> rw [e]
  · exact h
  · exact kept_failed _ _ (kept_withCounter _ h)
  · exact flow_actOnStatus sw (kept_withCounter _ h)

/-- A received word goes into DESC below the capacity, which is at most 18 words (45_word_serializer R255). -/
theorem flow_receive (v : Word) (h : Kept s) : (receive v s).KeepsInvariant := by
  have hcap : s.rxCap.toNat ≤ 18 := h.capacity
  obtain ⟨-, e⟩ | ⟨-, -, -, e⟩ | ⟨-, -, hroom, -, e⟩ | ⟨-, -, hroom, hout, -⟩ | ⟨-, -, e⟩ := receive_cases v s
  · rw [e]; exact h
  · rw [e]; exact kept_failed _ _ h
  · rw [e]
    have hstored : Kept { s with desc := storeWord s.desc s.rxCount.toNat v } :=
      kept_writeDesc h (by simp only [le32_length, descBytes]; omega)
    have hcount : (s.rxCount + 1).toNat ≤ s.rxCap.toNat := toNat_succ_le hroom
    exact { hstored with received := hcount }
  · exact absurd hroom (by simp only [descWords] at hout; omega)
  · rw [e]; exact { h with }

/-- A pending setpoint is appended below MAX_SETPOINTS, where the count does not wrap (45_word_serializer R258). -/
theorem flow_appendPending (h : Kept s) : (appendPending s).KeepsInvariant := by
  obtain ⟨-, e⟩ | ⟨-, -, e⟩ | ⟨-, hroom, e⟩ := appendPending_cases s <;> rw [e]
  · exact h
  · exact kept_failed _ _ h
  · have hcount : (s.spCount + 1).toNat ≤ s.params.maxSetpoints :=
      toNat_succ_le hroom
    exact { kept_storeSp s.rxPending h hroom with count := hcount }

/-- The word under a cursor that has not reached the end of its list exists (45_word_serializer R251). -/
theorem cursorWord_exists (h : Kept s) (hpos : s.txPos.toNat < s.txLen.toNat) : ∃ w, cursorWord s = .ok w := by
  obtain ⟨-, -, e⟩ | ⟨hsrc, hout, -⟩ | ⟨-, -, e⟩ | ⟨hsrc, hout, -⟩ := cursorWord_cases s
  · exact ⟨_, e⟩
  · exact absurd (h.descCursor hsrc) (by omega)
  · exact ⟨_, e⟩
  · exact absurd (h.spCursor hsrc) (by omega)

theorem flow_sendNext (ok : Bool) (h : Kept s) : (sendNext ok s).KeepsInvariant := by
  obtain ⟨-, e⟩ | ⟨hpos, w, -, -, e⟩ | ⟨-, w, -, -, e⟩ | ⟨hpos, f, hf, -⟩ := sendNext_cases ok s
  · rw [e]; exact { h with }
  · rw [e]
    have hnext : (s.txPos + 1).toNat ≤ s.txLen.toNat := toNat_succ_le hpos
    exact { h with cursor := hnext }
  · rw [e]; trivial
  · obtain ⟨w, hw⟩ := cursorWord_exists h hpos
    simp [hw] at hf

theorem flow_emitControl (ok : Bool) (h : Kept s) : (emitControl ok s).KeepsInvariant := by
  obtain ⟨-, e⟩ | ⟨w, -, -, e⟩ | ⟨w, -, -, e⟩ := emitControl_cases ok s <;> rw [e]
  · exact h
  · exact { h with }
  · trivial

/-! ### The arms of part 4 -/

theorem flow_armInit (h : Kept s) : (armInit s).KeepsInvariant := by
  unfold armInit
  split
  · exact kept_setCodes _ _ (kept_emit _ h)
  · exact kept_setCodes _ _ h

theorem flow_armSendcmd (indexOk valueOk : Bool) (h : Kept s) : (armSendcmd indexOk valueOk s).KeepsInvariant :=
  flow_andThen (flow_regWrite _ _ _ (kept_setToggle true h)) fun _ h =>
    flow_andThen (flow_regWrite _ _ _ h) fun _ h => kept_setCodes _ _ (kept_armRxDesc (kept_loadTxDesc h))

theorem kept_enterCurveinfo (h : Kept s) : Kept (enterCurveinfo s) := by
  unfold enterCurveinfo
  split
  · exact kept_loadTxDesc h
  · exact kept_armRxDesc h

theorem flow_armCurveinfo (h : Kept s) : (armCurveinfo s).KeepsInvariant := by
  unfold armCurveinfo
  split
  · exact kept_armResponse (kept_setCodes _ _ (kept_setToggle _ (kept_enterCurveinfo h)))
  · exact kept_armResponse (kept_setCodes _ _ (kept_setToggle _ h))

theorem flow_enterSetpoints (h : Kept s) : (enterSetpoints s).KeepsInvariant := by
  have hentered := kept_setToggle false h
  have hreentered : Kept (flipToggle s) := kept_setToggle _ h
  unfold enterSetpoints
  split
  · dsimp only
    split
    · exact kept_loadTxSp hentered
    · split
      · exact flow_raiseFail _ _ hentered
      · exact kept_armRxSp (kept_withCount hentered (Nat.zero_le _))
  · dsimp only
    split
    · exact hreentered
    · exact flow_appendPending hreentered

theorem flow_armSetpoints (h : Kept s) : (armSetpoints s).KeepsInvariant :=
  flow_andThen (flow_enterSetpoints h) fun _ h => kept_armResponse (kept_setCodes _ _ h)

theorem flow_finishRead (h : Kept s) : (finishRead s).KeepsInvariant := by
  unfold finishRead
  split
  · exact h
  · exact flow_andThen (flow_appendPending h) fun _ h => kept_emit _ h

theorem flow_armFinished (h : Kept s) : (armFinished s).KeepsInvariant :=
  flow_andThen (flow_finishRead h) fun _ h => kept_reportSuccess h

theorem flow_part4 (c : Cycle) (h : Kept s) : (part4 c s).KeepsInvariant := by
  unfold part4
  split_ifs
  · exact flow_armInit h
  · exact flow_armSendcmd _ _ h
  · exact flow_armCurveinfo h
  · exact flow_armSetpoints h
  · exact flow_armFinished h
  · exact flow_raiseFail _ _ h

theorem flow_part5 (c : Cycle) (h : Kept s) : (part5 c s).KeepsInvariant := by
  unfold part5
  split
  · exact flow_sendNext _ h
  · exact h

theorem flow_stepParts (c : Cycle) (h : Kept s) : (stepParts c s).KeepsInvariant :=
  flow_andThen (flow_regReads c (kept_clearChanged h)) fun _ h =>
  flow_andThen (flow_part2 _ h) fun _ h =>
  flow_andThen (flow_receive _ h) fun _ h =>
  flow_andThen (flow_part4 c h) fun _ h =>
  flow_andThen (flow_part5 c h) fun _ h =>
  flow_emitControl _ h

/-! ### How an operation answers -/

theorem nextKept_next (h : Kept s) : NextKept (.next s)
  | _, rfl => h

theorem nextKept_fault (e : Fault) : NextKept (.fault e) := by
  intro t ht
  cases ht

theorem nextKept_refused (r : Refusal) : NextKept (.refused r) := by
  intro t ht
  cases ht

/-- An operation that is committed or rolled back keeps the invariant if what it does keeps it. -/
theorem nextKept_settle {x : Flow} (h : Kept s) (hx : x.KeepsInvariant) : NextKept (settle s x) := by
  cases x with
  | go u => exact nextKept_next hx
  | ended u => exact nextKept_next hx
  | abandon l => exact nextKept_next (kept_withLog l h)
  | fault e => exact nextKept_fault e

/-- An operation performed only where the registers call for it. -/
theorem nextKept_settle_ite {p : Prop} [Decidable p] {x : Flow} (h : Kept s) (hx : x.KeepsInvariant) :
    NextKept (settle s (if p then x else .go s)) := by
  split
  · exact nextKept_settle h hx
  · exact nextKept_next h

/-- A write of the host, ignored where its port is closed or its value out of range. -/
theorem nextKept_next_ite {p : Prop} [Decidable p] {t : State} (h : Kept s) (ht : p → Kept t) :
    NextKept (.next (if p then t else s)) := by
  split
  · exact nextKept_next (ht ‹p›)
  · exact nextKept_next h

/-! ### The operations -/

theorem nextKept_emitRow (here : Bool) (w : Word) (ok : Bool) (h : Kept s) : NextKept (emitRow here w ok s) :=
  nextKept_settle_ite h (flow_emitControl ok h)

theorem nextKept_swAdv (st : BitVec 3) (sw : Word) (h : Kept s) : NextKept (settle s (swAdv st sw s)) :=
  nextKept_next_ite h fun _ => kept_advance h

theorem nextKept_swErr (st : BitVec 3) (sw : Word) (h : Kept s) : NextKept (settle s (swErr st sw s)) :=
  nextKept_settle_ite h (flow_raiseFail _ _ h)

theorem nextKept_swNomatch (st : BitVec 3) (sw : Word) (h : Kept s) : NextKept (settle s (swNomatch st sw s)) :=
  nextKept_settle_ite (x := .ended s) h h

theorem nextKept_dataWord (st : BitVec 3) (src : TxSrc) (target : RxTarget) (w : Word) (ok : Bool) (h : Kept s) :
    NextKept (settle s (dataWord st src target w ok s)) := by
  unfold dataWord
  split
  · exact nextKept_settle_ite h (flow_sendNext ok h)
  · exact nextKept_settle_ite h (flow_receive w h)

theorem nextKept_execRecord (f : Fields) (pad0 pad1 : Byte) (h : Kept s) : NextKept (execRecord f pad0 pad1 s) :=
  nextKept_next_ite h fun _ => kept_writeDesc h (by simp [fields_bytes_length, descBytes])

theorem nextKept_execSetName (t : Option (List Byte)) (h : Kept s) : NextKept (execSetName t s) := by
  unfold execSetName
  split
  · exact nextKept_next (kept_answering _ h)
  · split_ifs
    · exact nextKept_next (kept_answering _ h)
    · exact nextKept_next (kept_answering _ (kept_withHost _ h))
    · exact nextKept_next (kept_answering _ h)

theorem nextKept_execXlenEncode (n : BitVec 64) (dt : Real64) (h : Kept s) : NextKept (execXlenEncode n dt s) := by
  unfold execXlenEncode
  dsimp only
  split_ifs
  · exact nextKept_next (kept_answering _ h)
  · exact nextKept_next (kept_answering _ h)
  · exact nextKept_refused _
  · exact nextKept_refused _

theorem nextKept_hostSetpoint (k : Nat) (w : Word) (h : Kept s) : NextKept (hostSetpoint k w s) := by
  unfold hostSetpoint
  split_ifs with _ hk
  · exact nextKept_next (kept_storeSp w h hk)
  · exact nextKept_fault _
  · exact nextKept_next h

theorem nextKept_execPosEncode (k : Half) (p : Real64) (h : Kept s) : NextKept (execPosEncode k p s) := by
  unfold execPosEncode
  dsimp only
  split_ifs
  · exact nextKept_hostSetpoint _ _ h
  · exact nextKept_refused _
  · exact nextKept_refused _

theorem nextKept_execProject (a : ProjectArgs) (h : Kept s) : NextKept (execProject a s) := by
  unfold execProject
  split_ifs
  · exact nextKept_fault _
  · exact nextKept_next { h with }
  · exact nextKept_next h

theorem nextKept_execReqWrite (id count : Half) (xlenOk : Bool) (h : Kept s) :
    NextKept (execReqWrite id count xlenOk s) := by
  unfold execReqWrite
  dsimp only
  split_ifs with haccepted
  · obtain ⟨-, -, -, -, -, hcount⟩ := checkRequest_write_accepted_iff.1 haccepted
    exact nextKept_next (kept_answering _ (kept_startSession (kept_loadWrite h hcount)))
  · exact nextKept_next (kept_answering _ h)

theorem nextKept_execReqRead (id : Half) (h : Kept s) : NextKept (execReqRead id s) := by
  unfold execReqRead
  dsimp only
  split_ifs
  · exact nextKept_next (kept_answering _ (kept_startSession (kept_loadRead id h)))
  · exact nextKept_next (kept_answering _ h)

theorem nextKept_rejectIf (reason : ReqStatus) (r : Request) (h : Kept s) : NextKept (.next (rejectIf reason r s)) :=
  nextKept_next_ite h fun _ => kept_answering _ h

theorem nextKept_runStep (c : Cycle) (h : Kept s) : NextKept (runStep c s) :=
  nextKept_settle (kept_setLock _ h) (flow_stepParts c (kept_setLock _ h))

theorem nextKept_stepOnce (c : Cycle) (h : Kept s) : NextKept (stepOnce c s) := by
  obtain ⟨-, -, e⟩ | ⟨-, e⟩ := stepOnce_cases c s <;> rw [e]
  · exact nextKept_runStep c h
  · exact nextKept_next h

theorem nextKept_afterStep {f : State → State} {x : Host.Outcome State Fault Refusal} (hf : ∀ u, Kept u → Kept (f u))
    (hx : NextKept x) : NextKept (afterStep f x) := by
  cases x with
  | next u => exact nextKept_next (hf u (hx u rfl))
  | fault e => exact nextKept_fault e
  | refused r => exact nextKept_refused r

theorem nextKept_execTick (c : Cycle) (granted : Bool) (h : Kept s) : NextKept (execTick c granted s) := by
  obtain ⟨-, e⟩ | ⟨-, -, -, e⟩ | ⟨-, -, -, e⟩ | ⟨-, -, e⟩ := execTick_cases c granted s <;> rw [e]
  · exact nextKept_next h
  · exact nextKept_afterStep (fun _ => kept_giveBack) (nextKept_runStep c (kept_setLock _ h))
  · exact nextKept_next (kept_setLock _ h)
  · exact nextKept_refused _

theorem nextKept_execStepUnknown (h : Kept s) : NextKept (execStepUnknown s) := by
  unfold execStepUnknown
  split
  · exact nextKept_next h
  · exact nextKept_settle h (flow_raiseFail _ _ h)

/-- Every operation keeps the invariant: one arm per row of spec/opcode_table.json, in the table's order. -/
theorem nextKept_exec (h : Kept s) : (i : Instr) → NextKept (exec i s)
  | .cwInit w ok => nextKept_emitRow _ w ok h
  | .cwSendcmdW m ok | .cwSendcmdR m ok => nextKept_emitRow _ (cwBits m 0 true) ok h
  | .cwCurveinfoW m t ok | .cwCurveinfoR m t ok => nextKept_emitRow _ (cwBits m 1 t) ok h
  | .cwSetpointsW m t ok | .cwSetpointsR m t ok => nextKept_emitRow _ (cwBits m 2 t) ok h
  | .swInitAdv => nextKept_swAdv _ _ h
  | .swInitSteady => nextKept_next h
  | .swInitErr _ _ => nextKept_swErr _ _ h
  | .swInitNomatch _ => nextKept_swNomatch _ _ h
  | .swSendcmdAdv => nextKept_swAdv _ _ h
  | .swSendcmdSteady => nextKept_next h
  | .swSendcmdErr _ _ => nextKept_swErr _ _ h
  | .swSendcmdNomatch _ => nextKept_swNomatch _ _ h
  | .swCurveinfoAdv _ => nextKept_swAdv _ _ h
  | .swCurveinfoSteady _ => nextKept_next h
  | .swCurveinfoErr _ _ _ => nextKept_swErr _ _ h
  | .swCurveinfoNomatch _ => nextKept_swNomatch _ _ h
  | .swSetpointsAdv _ => nextKept_swAdv _ _ h
  | .swSetpointsSteady _ => nextKept_next h
  | .swSetpointsErr _ _ _ => nextKept_swErr _ _ h
  | .swSetpointsNomatch _ => nextKept_swNomatch _ _ h
  | .iw _ ok => nextKept_settle_ite h (flow_regWrite _ ok _ h)
  | .bw _ ok => nextKept_settle_ite h (flow_regWrite _ ok _ h)
  | .dw d ok => nextKept_dataWord _ _ _ d ok h
  | .pw p ok => nextKept_dataWord _ _ _ p ok h
  | .record f pad0 pad1 => nextKept_execRecord f pad0 pad1 h
  | .pack f => nextKept_next (kept_packDesc f h)
  | .unpack => nextKept_next (kept_answering _ h)
  | .setName t => nextKept_execSetName t h
  | .blocksize _ => nextKept_next (kept_answering _ h)
  | .dump => nextKept_next (kept_answering _ h)
  | .xlenEncode n dt => nextKept_execXlenEncode n dt h
  | .xlenDecode _ _ => nextKept_next (kept_answering _ h)
  | .posEncode k p => nextKept_execPosEncode k p h
  | .posDecode _ => nextKept_next (kept_answering _ h)
  | .project a => nextKept_execProject a h
  | .reqWrite id count xlenOk => nextKept_execReqWrite id count xlenOk h
  | .reqRead id => nextKept_execReqRead id h
  | .sessionInit => nextKept_next (kept_startSession h)
  | .rejBusy r => nextKept_rejectIf _ r h
  | .rejInvalidId r => nextKept_rejectIf _ r h
  | .rejInvalidDuration r => nextKept_rejectIf _ r h
  | .rejInvalidCount r => nextKept_rejectIf _ r h
  | .sinkRead => nextKept_next (kept_answering _ h)
  | .step c => nextKept_stepOnce c h
  | .stepInit => nextKept_settle_ite h (flow_armInit h)
  | .stepSendcmd indexOk valueOk => nextKept_settle_ite h (flow_armSendcmd indexOk valueOk h)
  | .stepCurveinfo => nextKept_settle_ite h (flow_armCurveinfo h)
  | .stepSetpoints => nextKept_settle_ite h (flow_armSetpoints h)
  | .stepFinished => nextKept_settle_ite h (flow_armFinished h)
  | .stepUnknown => nextKept_execStepUnknown h
  | .toggleSet1 => nextKept_next (kept_setToggle _ h)
  | .toggleFlipCurveinfo => nextKept_next (kept_setToggle _ h)
  | .toggleReset0 => nextKept_next (kept_setToggle _ h)
  | .toggleFlipSetpoints => nextKept_next (kept_setToggle _ h)
  | .classify _ => nextKept_next (kept_answering _ h)
  | .txLoadDesc => nextKept_next (kept_loadTxDesc h)
  | .txLoadSp => nextKept_next (kept_loadTxSp h)
  | .txNext ok => nextKept_settle h (flow_sendNext ok h)
  | .rxArmDesc => nextKept_next (kept_armRxDesc h)
  | .rxArmSp => nextKept_next (kept_armRxSp h)
  | .rxPush vin => nextKept_settle h (flow_receive vin h)
  | .spAppend => nextKept_settle h (flow_appendPending h)
  | .tmoTick => nextKept_next (kept_countLook h)
  | .tmoExpire => nextKept_settle h (flow_checkExpired h)
  | .tmoArm => nextKept_next (kept_armWait h)
  | .errDevice _ => nextKept_settle_ite h (flow_raiseFail _ _ h)
  | .fail k code => nextKept_settle h (flow_raiseFail k code h)
  | .tick c granted => nextKept_execTick c granted h
  | .tickIdle => nextKept_next h
  | .lockAcq granted => nextKept_next (kept_askLock granted h)
  | .lockRel => nextKept_next (kept_giveBack h)
  | .reset => nextKept_next (kept_resetRegisters h)

/-- Every host write keeps the invariant: a setpoint outside SP faults, a count out of range is ignored (log 11). -/
theorem nextKept_execHostWrite (h : Kept s) : (w : HostWrite) → NextKept (execHostWrite w s)
  | .setpoint k v => nextKept_hostSetpoint k.toNat v h
  | .setpointCount _ => nextKept_next_ite h fun ⟨_, hcount⟩ => kept_withCount h hcount
  | .objectType _ => nextKept_next_ite h fun _ => kept_withHost _ h
  | .nameRaw _ => nextKept_next_ite h fun _ => kept_withHost _ h
  | .xLength _ => nextKept_next_ite h fun _ => kept_withHost _ h
  | .xDimUuid _ => nextKept_next_ite h fun _ => kept_withHost _ h
  | .yDimUuid _ => nextKept_next_ite h fun _ => kept_withHost _ h
  | .wizardType _ => nextKept_next_ite h fun _ => kept_withHost _ h
  | .wizardParam _ _ => nextKept_next_ite h fun _ => kept_withHost _ h

theorem nextKept_execHostRead (r : HostRead) (h : Kept s) : NextKept (execHostRead r s) := by
  cases r with
  | descWord k => exact nextKept_next (kept_answering _ h)
  | setpoint k =>
    simp only [execHostRead]
    split
    · exact nextKept_next (kept_answering _ h)
    · exact nextKept_fault _
  | dataRegs => exact nextKept_next (kept_answering _ h)

theorem nextKept_step (h : Kept s) : NextKept (step s) := by
  obtain ⟨-, e⟩ | ⟨i, rest, -, e⟩ | ⟨w, rest, -, e⟩ | ⟨r, rest, -, e⟩ | ⟨r, -, e⟩ := step_cases s <;> rw [e]
  · exact nextKept_next h
  · exact nextKept_exec (kept_withScript rest h) i
  · exact nextKept_execHostWrite (kept_withScript rest h) w
  · exact nextKept_execHostRead r (kept_withScript rest h)
  · exact nextKept_refused _

end

/-! ### Reset -/

/-- The ranges of 00_scope R9. -/
theorem params_wf_iff {p : Params} :
    p.wf = true ↔ p.timeoutCycles ≤ 2 ^ 32 - 2 ∧ p.baseModeWrite ≤ 2 ^ 24 - 4 ∧ p.baseModeRead ≤ 2 ^ 24 - 4 ∧
      p.baseModeWrite ≠ p.baseModeRead ∧ 1 ≤ p.maxCurveId ∧ p.maxCurveId ≤ 65535 ∧ 1 ≤ p.maxSetpoints ∧
      p.maxSetpoints ≤ 65535 := by
  simp only [Params.wf, Bool.and_eq_true, decide_eq_true_eq, and_assoc]

/-- The open parameters lie in their ranges, and the two base modes differ (00_scope R9). -/
theorem config_params_wf : Config.params.wf = true := by
  have htimeout := Config.timeoutCycles.isLt
  have hwrite := Config.baseModeWrite.isLt
  have hgap := Config.baseModeGap.isLt
  have hid := Config.maxCurveIdLess1.isLt
  have hcount := Config.maxSetpointsLess1.isLt
  rw [params_wf_iff]
  simp only [Config.params]
  omega

theorem kept_reset : Kept State.reset where
  params := config_params_wf
  descForm := rfl
  descRange := rfl
  spForm := rfl
  spRange := rfl
  count := Nat.zero_le _
  cursor := Nat.le_refl 0
  descCursor _ := Nat.zero_le _
  spCursor := nofun
  received := Nat.le_refl 0
  capacity := Nat.zero_le _
  errorCode _ := rfl

/-- After reset the engine is idle, so nothing is asked of a session in flight or of one that has ended. -/
theorem session_reset : Session State.reset where
  idle _ := ⟨rfl, rfl, rfl, rfl⟩
  busy := nofun
  done := nofun
  curveId := nofun
  waits := nofun
  codesInit := nofun
  codesSend := nofun
  codesCurve := nofun
  codesSet := nofun
  response := nofun
  pending := nofun
  looks := nofun
  counter := Nat.zero_le _
  curveInfo := nofun
  setpoints := nofun
  due hlock := hlock.elim nofun nofun
  described := nofun

/-! ### The statements -/

/-- Settles O52: every event keeps the invariant, operation by operation (`nextKept_step`). -/
theorem everyStepKeepsTheInvariant : Obligations.EveryStepKeepsTheInvariant := by
  intro s t hs hstep
  exact nextKept_step hs t hstep

/-- Settles O51: the ranges of the open parameters, and an engine that is idle. -/
theorem invariantsHoldAtReset : Obligations.InvariantsHoldAtReset := ⟨kept_reset, session_reset⟩

/-- Settles O50: RESET answers `resetRegisters`, which takes every register R51 gives a value for from `State.reset`. -/
theorem resetLeavesTheListedValues : Obligations.ResetLeavesTheListedValues := by
  refine ⟨?_, fun s => ⟨resetRegisters s, rfl, ?_, rfl, rfl⟩⟩
  · and_intros <;> rfl
  · and_intros <;> rfl

end Sys2Proof.Machine
end

section
/-! Words in a memory (20_memory R72, R74): the bytes of a stored word, and what the canonical form is for: a memory is
determined by what it reads as. -/

namespace Sys2Proof.Machine

/-- Byte `j` of a word, low byte first (20_memory R72). -/
theorem toNat_le32_getD (w : Word) (j : Fin 4) : ((le32 w).getD j.val 0).toNat = w.toNat / 256 ^ j.val % 256 := by
  have hbyte : ∀ k, (w.extractLsb' k 8).toNat = w.toNat / 2 ^ k % 256 := fun k => by
    rw [BitVec.extractLsb'_toNat, Nat.shiftRight_eq_div_pow]
  match j with
  | 0 => exact hbyte 0
  | 1 => exact hbyte 8
  | 2 => exact hbyte 16
  | 3 => exact hbyte 24

theorem readByte_storeWord_inside {m : Memory} {k : Nat} {w : Word} (h : Memory.wf m = true) (j : Fin 4) :
    readByte (storeWord m k w) (4 * k + j.val) = (le32 w).getD j.val 0 := by
  rw [storeWord, readByte_writeBytes h, if_pos (by simp only [le32_length]; omega), Nat.add_sub_cancel_left]

theorem readByte_cons_self (b : Nat) (v : Byte) (m : Memory) : readByte ((b, v) :: m) b = v := if_pos rfl

theorem readByte_cons_of_ne {a b : Nat} (v : Byte) (m : Memory) (h : a ≠ b) :
    readByte ((b, v) :: m) a = readByte m a := if_neg h

/-- In canonical form an address below the first is below all. -/
theorem lt_of_head_lt {a : Nat} {c : Host.Cell} {m : Memory} (hm : Memory.wf (c :: m) = true) (ha : a < c.1) :
    ∀ d ∈ c :: m, a < d.1 :=
  List.forall_mem_cons.2 ⟨ha, fun d hd => ha.trans (wf_head_lt hm d hd)⟩

/-- The least address a memory in canonical form lists is one at which it differs from a memory that lists only
higher ones. -/
theorem readByte_head_ne {c : Host.Cell} {m n : Memory} (hm : Memory.wf (c :: m) = true) (hn : ∀ d ∈ n, c.1 < d.1) :
    readByte (c :: m) c.1 ≠ readByte n c.1 := by
  rw [readByte_cons_self, readByte_of_lt hn]
  exact (wf_cons.1 hm).1

/-- In canonical form what a memory reads as determines the list. -/
theorem eq_of_readByte_eq {m n : Memory} (hm : Memory.wf m = true) (hn : Memory.wf n = true)
    (h : ∀ a, readByte m a = readByte n a) : m = n := by
  induction m generalizing n with
  | nil =>
    cases n with
    | nil => rfl
    | cons d n => exact absurd (h d.1).symm (readByte_head_ne hn nofun)
  | cons c m ih =>
    cases n with
    | nil => exact absurd (h c.1) (readByte_head_ne hm nofun)
    | cons d n =>
      obtain hlt | heq | hgt := lt_trichotomy c.1 d.1
      · exact absurd (h c.1) (readByte_head_ne hm (lt_of_head_lt hn hlt))
      · obtain ⟨a, v⟩ := c
        obtain ⟨b, w⟩ := d
        obtain rfl : a = b := heq
        have hhead : v = w := by simpa only [readByte_cons_self] using h a
        have htail : ∀ x, readByte m x = readByte n x := fun x => by
          by_cases hx : x = a
          · rw [hx, readByte_of_lt (wf_head_lt hm), readByte_of_lt (wf_head_lt hn)]
          · simpa only [readByte_cons_of_ne _ _ hx] using h x
        rw [hhead, ih (wf_tail hm) (wf_tail hn) htail]
      · exact absurd (h d.1).symm (readByte_head_ne hn (lt_of_head_lt hm hgt))

/-- Settles O57: a read after a store byte by byte, and `eq_of_readByte_eq` for the canonical form. -/
theorem storedWordsReadBack : Obligations.StoredWordsReadBack := by
  intro m n k w hm hn
  refine ⟨wordAt_storeWord hm, fun j => ?_, fun _ ha => readByte_storeWord_outside hm ha, storeWord_wf hm,
    eq_of_readByte_eq hm hn⟩
  rw [readByte_storeWord_inside hm, toNat_le32_getD]

end Sys2Proof.Machine
end

section
/-! Where an operation stops (20_memory R70; 93_implementation_defined U9, U10, U13). A part of a step that keeps the
invariant accesses no address outside the memories, so an operation committed from it neither faults nor is refused; the
conversions and the tick are what is left. -/

namespace Sys2Proof.Machine

/-- The outcome of this operation is a next state, or a stop the spec gives: an address outside SP, or operands or a
tick it tells a model to refuse. -/
def StopsByRule (s : State) (i : Instr) : Host.Outcome State Fault Refusal → Prop
  | .next _ => True
  | .fault e => Kept s → e = .spAddress ∧ ∃ k p, i = .posEncode k p ∧ s.params.maxSetpoints ≤ k.toNat
  | .refused r =>
    (r = .xlenDomain ∧ ∃ n dt, i = .xlenEncode n dt ∧
      (fFinite dt = false ∨ 2 ^ 32 ≤ fFloor (fMul (fMul (fOfNat n.toNat) dt) (fOfNat 100000)))) ∨
    (r = .posDomain ∧ ∃ k p, i = .posEncode k p ∧
      (fFinite p = false ∨ fFinite (fMul p positionScale) = false ∨
        posRound s.params (fMul p positionScale) < -(2 ^ 31) ∨ 2 ^ 31 ≤ posRound s.params (fMul p positionScale))) ∨
    (r = .tickOverrun ∧ s.xferState = .busy ∧ s.lock ≠ .free ∧ ∃ c g, i = .tick c g)

section
variable {s : State} {i : Instr}

/-! ### Operations committed or rolled back -/

theorem stops_settle {s0 : State} {x : Flow} (hx : Kept s → x.KeepsInvariant) : StopsByRule s i (settle s0 x) := by
  cases x with
  | go u => trivial
  | ended u => trivial
  | abandon l => trivial
  | fault e => exact fun h => (hx h).elim

/-- An operation performed only where the registers call for it. -/
theorem stops_settle_ite {s0 : State} {p : Prop} [Decidable p] {x : Flow} (hx : Kept s → x.KeepsInvariant) :
    StopsByRule s i (settle s0 (if p then x else .go s)) := by
  split
  · exact stops_settle hx
  · trivial

theorem stops_emitRow (here : Bool) (w : Word) (ok : Bool) : StopsByRule s i (emitRow here w ok s) :=
  stops_settle_ite (flow_emitControl ok)

theorem stops_swErr (st : BitVec 3) (sw : Word) : StopsByRule s i (settle s (swErr st sw s)) :=
  stops_settle_ite (flow_raiseFail _ _)

theorem stops_swNomatch (st : BitVec 3) (sw : Word) : StopsByRule s i (settle s (swNomatch st sw s)) :=
  stops_settle_ite (x := .ended s) id

theorem stops_dataWord (st : BitVec 3) (src : TxSrc) (target : RxTarget) (w : Word) (ok : Bool) :
    StopsByRule s i (settle s (dataWord st src target w ok s)) := by
  unfold dataWord
  split
  · exact stops_settle_ite (flow_sendNext ok)
  · exact stops_settle_ite (flow_receive w)

theorem stops_execStepUnknown : StopsByRule s i (execStepUnknown s) := by
  unfold execStepUnknown
  split
  · trivial
  · exact stops_settle (flow_raiseFail _ _)

theorem stops_execSetName (t : Option (List Byte)) : StopsByRule s i (execSetName t s) := by
  unfold execSetName
  split
  · trivial
  · split <;> trivial

/-- The count of an engine under the invariant never exceeds SP, so a projection reads inside it (10_state R35). -/
theorem stops_execProject (a : ProjectArgs) : StopsByRule s i (execProject a s) := by
  unfold execProject
  split_ifs with _ hout
  · exact fun h => absurd h.count (Nat.not_le_of_lt hout)
  · trivial
  · trivial

/-! ### The step, and the tick (93_implementation_defined U13) -/

theorem stops_runStep {s0 : State} (c : Cycle) (h0 : Kept s → Kept s0) : StopsByRule s i (runStep c s0) :=
  stops_settle fun h => flow_stepParts c (kept_setLock _ (h0 h))

theorem stops_stepOnce (c : Cycle) : StopsByRule s i (stepOnce c s) := by
  obtain ⟨-, -, e⟩ | ⟨-, e⟩ := stepOnce_cases c s <;> rw [e]
  · exact stops_runStep c id
  · trivial

theorem stops_afterStep {f : State → State} {x : Host.Outcome State Fault Refusal} (hx : StopsByRule s i x) :
    StopsByRule s i (afterStep f x) := by
  cases x with
  | next u => trivial
  | fault e => exact hx
  | refused r => exact hx

theorem stops_execTick (c : Cycle) (granted : Bool) : StopsByRule s (.tick c granted) (execTick c granted s) := by
  obtain ⟨-, e⟩ | ⟨-, -, -, e⟩ | ⟨-, -, -, e⟩ | ⟨hbusy, hlock, e⟩ := execTick_cases c granted s <;> rw [e]
  · trivial
  · exact stops_afterStep (stops_runStep c (kept_setLock _))
  · trivial
  · exact .inr (.inr ⟨rfl, hbusy, hlock, c, granted, rfl⟩)

/-! ### The conversions (93_implementation_defined U9, U10) -/

theorem stops_execXlenEncode (n : BitVec 64) (dt : Real64) :
    StopsByRule s (.xlenEncode n dt) (execXlenEncode n dt s) := by
  unfold execXlenEncode
  dsimp only
  split_ifs with hfinite _ hbelow
  · trivial
  · trivial
  · exact .inl ⟨rfl, n, dt, rfl, .inr (Int.not_lt.1 hbelow)⟩
  · exact .inl ⟨rfl, n, dt, rfl, .inl (Bool.eq_false_of_not_eq_true hfinite)⟩

/-- The host's write port faults only on a word outside SP. -/
theorem stops_hostSetpoint (k : Half) (p : Real64) (w : Word) :
    StopsByRule s (.posEncode k p) (hostSetpoint k.toNat w s) := by
  unfold hostSetpoint
  split_ifs with _ hinside
  · trivial
  · exact fun _ => ⟨rfl, k, p, rfl, Nat.le_of_not_lt hinside⟩
  · trivial

theorem stops_execPosEncode (k : Half) (p : Real64) : StopsByRule s (.posEncode k p) (execPosEncode k p s) := by
  unfold execPosEncode
  dsimp only
  split_ifs with hfinite htick
  · exact stops_hostSetpoint k p _
  · refine .inr (.inl ⟨rfl, k, p, rfl, .inr (.inr ?_)⟩)
    rwa [not_and_or, Int.not_le, Int.not_lt] at htick
  · refine .inr (.inl ⟨rfl, k, p, rfl, ?_⟩)
    rw [Bool.and_eq_true, not_and_or, Bool.not_eq_true, Bool.not_eq_true] at hfinite
    exact hfinite.imp_right .inl

end

/-- Every operation answers, or stops where the spec does: one arm per row of spec/opcode_table.json, in the table's
order; the rows that answer in every state stop nowhere. -/
theorem stops_exec (s : State) : (i : Instr) → StopsByRule s i (exec i s)
  | .cwInit w ok => stops_emitRow _ w ok
  | .cwSendcmdW m ok | .cwSendcmdR m ok => stops_emitRow _ (cwBits m 0 true) ok
  | .cwCurveinfoW m t ok | .cwCurveinfoR m t ok => stops_emitRow _ (cwBits m 1 t) ok
  | .cwSetpointsW m t ok | .cwSetpointsR m t ok => stops_emitRow _ (cwBits m 2 t) ok
  | .swInitAdv | .swInitSteady => trivial
  | .swInitErr _ _ => stops_swErr _ _
  | .swInitNomatch _ => stops_swNomatch _ _
  | .swSendcmdAdv | .swSendcmdSteady => trivial
  | .swSendcmdErr _ _ => stops_swErr _ _
  | .swSendcmdNomatch _ => stops_swNomatch _ _
  | .swCurveinfoAdv _ | .swCurveinfoSteady _ => trivial
  | .swCurveinfoErr _ _ _ => stops_swErr _ _
  | .swCurveinfoNomatch _ => stops_swNomatch _ _
  | .swSetpointsAdv _ | .swSetpointsSteady _ => trivial
  | .swSetpointsErr _ _ _ => stops_swErr _ _
  | .swSetpointsNomatch _ => stops_swNomatch _ _
  | .iw _ ok => stops_settle_ite (flow_regWrite _ ok _)
  | .bw _ ok => stops_settle_ite (flow_regWrite _ ok _)
  | .dw d ok => stops_dataWord _ _ _ d ok
  | .pw p ok => stops_dataWord _ _ _ p ok
  | .record _ _ _ | .pack _ | .unpack => trivial
  | .setName t => stops_execSetName t
  | .blocksize _ | .dump => trivial
  | .xlenEncode n dt => stops_execXlenEncode n dt
  | .xlenDecode _ _ => trivial
  | .posEncode k p => stops_execPosEncode k p
  | .posDecode _ => trivial
  | .project a => stops_execProject a
  | .reqWrite _ _ _ | .reqRead _ | .sessionInit => trivial
  | .rejBusy _ | .rejInvalidId _ | .rejInvalidDuration _ | .rejInvalidCount _ => trivial
  | .sinkRead => trivial
  | .step c => stops_stepOnce c
  | .stepInit => stops_settle_ite flow_armInit
  | .stepSendcmd indexOk valueOk => stops_settle_ite (flow_armSendcmd indexOk valueOk)
  | .stepCurveinfo => stops_settle_ite flow_armCurveinfo
  | .stepSetpoints => stops_settle_ite flow_armSetpoints
  | .stepFinished => stops_settle_ite flow_armFinished
  | .stepUnknown => stops_execStepUnknown
  | .toggleSet1 | .toggleFlipCurveinfo | .toggleReset0 | .toggleFlipSetpoints | .classify _ => trivial
  | .txLoadDesc | .txLoadSp => trivial
  | .txNext ok => stops_settle (flow_sendNext ok)
  | .rxArmDesc | .rxArmSp => trivial
  | .rxPush vin => stops_settle (flow_receive vin)
  | .spAppend => stops_settle flow_appendPending
  | .tmoTick => trivial
  | .tmoExpire => stops_settle flow_checkExpired
  | .tmoArm => trivial
  | .errDevice _ => stops_settle_ite (flow_raiseFail _ _)
  | .fail k code => stops_settle (s0 := s) (flow_raiseFail k code)
  | .tick c granted => stops_execTick c granted
  | .tickIdle | .lockAcq _ | .lockRel | .reset => trivial

/-- Settles O54: operation by operation (`stops_exec`). -/
theorem stopsAreOnlyTheSpecsOwn : Obligations.StopsAreOnlyTheSpecsOwn := by
  intro s i
  have hstops := stops_exec s i
  refine ⟨fun e hkept hfault => ?_, fun r hrefused => ?_⟩
  · rw [hfault] at hstops
    exact hstops hkept
  · rwa [hrefused] at hstops

end Sys2Proof.Machine
end

section
/-! The events of one step (20_memory R79, R83). What a part of a step adds to the log is a language over the events; a
sequence of parts adds the product of their languages, and a step that fails the session fails before its first event
(60_exceptions R310). -/

namespace Sys2Proof.Machine

/-! ### The events a step can make, in their order -/

theorem iwBits_eq_ofNat (i : Half) : iwBits i = BitVec.ofNat 32 i.toNat := (BitVec.ofNat_toNat 32 i).symm

/-- No event, or one of these. -/
def atMostOne (P : OutEvent → Prop) : Language OutEvent := fun l => l = [] ∨ ∃ e, P e ∧ l = [e]

/-- The pulse `delete_curve_req`, in a write session (43_step_sequencer R206). -/
def deletePulse (s : State) : Language OutEvent := atMostOne fun e => s.dir = .write ∧ e = .deleteCurveReq s.curveId

/-- The write of `index_out`, which carries the curve id (30_encoding R108). -/
def indexWrite (s : State) : Language OutEvent := atMostOne fun e => e = .write .indexOut (iwBits s.curveId)

/-- A write of this endpoint. -/
def portWrite (p : OutPort) : Language OutEvent := atMostOne fun e => ∃ y, e = .write p y

/-- The pulse `projection_req` (42_requests R187). -/
def projectionPulse : Language OutEvent := atMostOne fun e => e = .projectionReq

/-- Parts 5 to 7, after the events of part 4: a data word, the control word (20_memory R83). -/
def exchange : Language OutEvent := portWrite .valueOut * portWrite .controlWord

/-- The events of a step: the pulse of deletion or the index, then the exchange; or the pulse of a session that ends. -/
def stepEvents (s : State) : Language OutEvent := (deletePulse s + indexWrite s) * exchange + projectionPulse

theorem nil_mem_atMostOne (P : OutEvent → Prop) : [] ∈ atMostOne P := .inl rfl

theorem singleton_mem_atMostOne {P : OutEvent → Prop} {e : OutEvent} (he : P e) : [e] ∈ atMostOne P :=
  .inr ⟨e, he, rfl⟩

theorem eq_nil_or_portWrite {p : OutPort} {l : List OutEvent} (h : l ∈ portWrite p) : l = [] ∨ ∃ y, l = [.write p y] :=
  h.imp_right fun ⟨_, ⟨y, he⟩, hl⟩ => ⟨y, he ▸ hl⟩

theorem nil_mem_mul {L M : Language OutEvent} (hL : [] ∈ L) (hM : [] ∈ M) : [] ∈ L * M :=
  Language.append_mem_mul hL hM

theorem nil_mem_exchange : [] ∈ exchange := nil_mem_mul (nil_mem_atMostOne _) (nil_mem_atMostOne _)

theorem nil_mem_stepEvents (s : State) : [] ∈ stepEvents s := .inr (nil_mem_atMostOne _)

/-! ### What a part of a step adds to the log -/

/-- The registers of the session that a step leaves as they are until it ends. -/
structure SameSession (s u : State) : Prop where
  dir : u.dir = s.dir
  curveId : u.curveId = s.curveId
  xferState : u.xferState = s.xferState

theorem SameSession.trans {s u v : State} (h : SameSession s u) (k : SameSession u v) : SameSession s v :=
  ⟨k.dir.trans h.dir, k.curveId.trans h.curveId, k.xferState.trans h.xferState⟩

theorem stepEvents_congr {s u : State} (h : SameSession s u) : stepEvents u = stepEvents s := by
  simp only [stepEvents, deletePulse, indexWrite, h.dir, h.curveId]

/-- A part of a step adds events of `L`; where the part ends the step, it adds none or reports success. -/
def Flow.Emits (s : State) (L : Language OutEvent) : Flow → Prop
  | .go u => SameSession s u ∧ ∃ l ∈ L, u.log = s.log ++ l
  | .ended u => u.dir = s.dir ∧ (u.log = s.log ∨ u.result = .success ∧ ∃ l ∈ L, u.log = s.log ++ l)
  | .abandon k => ∃ l ∈ L, k = s.log ++ l
  | .fault _ => True

/-- A part of a step after which the step goes on, or is abandoned. -/
def Flow.NeverEnds : Flow → Prop
  | .go _ => True
  | .ended _ => False
  | .abandon _ => True
  | .fault _ => True

section
variable {s u : State} {L M : Language OutEvent} {x : Flow} {f : State → Flow}

theorem emits_go_nil (hL : [] ∈ L) (h : SameSession s u) (hlog : u.log = s.log) : (Flow.go u).Emits s L :=
  ⟨h, [], hL, by rw [hlog, List.append_nil]⟩

theorem emits_abandon_nil (hL : [] ∈ L) : (Flow.abandon s.log).Emits s L := ⟨[], hL, (List.append_nil _).symm⟩

theorem emits_raiseFail (k : Cause) (code : Byte) : (raiseFail k code s).Emits s L := ⟨rfl, .inl rfl⟩

/-- Where the events are counted from matters only by the log and the session's registers. -/
theorem emits_of_sameSession {s0 : State} (h : SameSession s0 s) (hlog : s.log = s0.log) (hx : x.Emits s L) :
    x.Emits s0 L := by
  cases x with
  | go u => exact ⟨h.trans hx.1, by rw [← hlog]; exact hx.2⟩
  | ended u => exact ⟨hx.1.trans h.dir, by rw [← hlog]; exact hx.2⟩
  | abandon k => exact (by rw [← hlog]; exact hx : ∃ l ∈ L, k = s0.log ++ l)
  | fault e => trivial

theorem emits_mono (hLM : L ≤ M) (hx : x.Emits s L) : x.Emits s M := by
  cases x with
  | go u => exact ⟨hx.1, hx.2.imp fun _ ⟨hl, hlog⟩ => ⟨hLM hl, hlog⟩⟩
  | ended u => exact ⟨hx.1, hx.2.imp_right (And.imp_right fun ⟨l, hl, hlog⟩ => ⟨l, hLM hl, hlog⟩)⟩
  | abandon k => exact hx.imp fun _ ⟨hl, hlog⟩ => ⟨hLM hl, hlog⟩
  | fault e => trivial

/-- A part adds its events after those that stand in the log already. -/
theorem emits_after {l : List OutEvent} (h : SameSession s u) (hl : l ∈ L) (hlog : u.log = s.log ++ l)
    (hnever : x.NeverEnds) (hx : x.Emits u M) : x.Emits s (L * M) := by
  cases x with
  | go v =>
    obtain ⟨hsame, m, hm, hlog'⟩ := hx
    exact ⟨h.trans hsame, l ++ m, Language.append_mem_mul hl hm, by rw [hlog', hlog, List.append_assoc]⟩
  | ended v => exact hnever.elim
  | abandon k =>
    obtain ⟨m, hm, hlog'⟩ := hx
    exact ⟨l ++ m, Language.append_mem_mul hl hm, by rw [hlog', hlog, List.append_assoc]⟩
  | fault e => trivial

/-- A sequence adds the events of its parts in order. The second part may not fail the session: events of the first
stand in the log by then. -/
theorem emits_andThen (hx : x.Emits s L) (hM : [] ∈ M) (hnever : ∀ u, (f u).NeverEnds)
    (hf : ∀ u, x = .go u → SameSession s u → (f u).Emits u M) : (x.andThen f).Emits s (L * M) := by
  have hle : L ≤ L * M := fun l hl => ⟨l, hl, [], hM, List.append_nil l⟩
  cases x with
  | go u =>
    obtain ⟨hsame, l, hl, hlog⟩ := hx
    exact emits_after hsame hl hlog (hnever u) (hf u rfl hsame)
  | ended u => exact emits_mono (x := .ended u) hle hx
  | abandon k => exact emits_mono (x := .abandon k) hle hx
  | fault e => trivial

/-- After a part that adds no event the next part's are all. -/
theorem emits_andThen_of_none (hx : x.Emits s 1) (hM : [] ∈ M) (hf : ∀ u, SameSession s u → (f u).Emits u M) :
    (x.andThen f).Emits s M := by
  have hle : (1 : Language OutEvent) ≤ M := fun l hl => (Language.mem_one l).1 hl ▸ hM
  cases x with
  | go u =>
    obtain ⟨hsame, l, hl, hlog⟩ := hx
    rw [Language.mem_one] at hl
    exact emits_of_sameSession hsame (by rw [hlog, hl, List.append_nil]) (hf u hsame)
  | ended u => exact emits_mono (x := .ended u) hle hx
  | abandon k => exact emits_mono (x := .abandon k) hle hx
  | fault e => trivial

theorem emits_stepEvents_of_none (hx : x.Emits s 1) (hf : ∀ u, (f u).Emits u (stepEvents u)) :
    (x.andThen f).Emits s (stepEvents s) :=
  emits_andThen_of_none hx (nil_mem_stepEvents s) fun u hu => stepEvents_congr hu ▸ hf u

theorem neverEnds_go : (Flow.go s).NeverEnds := trivial

/-- An update of other registers after a part adds no event. -/
theorem emits_andThen_update {g : State → State} (hx : x.Emits s L)
    (hg : ∀ u, SameSession u (g u) ∧ (g u).log = u.log) : (x.andThen fun u => .go (g u)).Emits s L := by
  rw [← mul_one L]
  exact emits_andThen hx Language.nil_mem_one (fun _ => neverEnds_go) fun u _ _ =>
    emits_go_nil Language.nil_mem_one (hg u).1 (hg u).2

theorem neverEnds_andThen (hx : x.NeverEnds) (hf : ∀ u, (f u).NeverEnds) : (x.andThen f).NeverEnds := by
  cases x with
  | go u => exact hf u
  | ended u => exact hx
  | abandon k => trivial
  | fault e => trivial

end

section
variable {s : State}

/-! ### The endpoint writes -/

theorem emits_regWrite (p : OutPort) (ok : Bool) (v : Word) :
    (regWrite p ok v s).Emits s (atMostOne fun e => e = .write p v) := by
  cases ok with
  | true => exact ⟨⟨rfl, rfl, rfl⟩, _, singleton_mem_atMostOne rfl, rfl⟩
  | false => exact emits_abandon_nil (nil_mem_atMostOne _)

theorem emits_regWrite_port (p : OutPort) (ok : Bool) (v : Word) : (regWrite p ok v s).Emits s (portWrite p) :=
  emits_mono (fun _ hl => hl.imp_right fun ⟨e, he, hl⟩ => ⟨e, ⟨v, he⟩, hl⟩) (emits_regWrite p ok v)

theorem neverEnds_regWrite (p : OutPort) (ok : Bool) (v : Word) : (regWrite p ok v s).NeverEnds := by
  cases ok <;> trivial

theorem emits_sendNext (ok : Bool) : (sendNext ok s).Emits s (portWrite .valueOut) := by
  obtain ⟨-, e⟩ | ⟨-, w, -, -, e⟩ | ⟨-, w, -, -, e⟩ | ⟨-, f, -, e⟩ := sendNext_cases ok s <;> rw [e]
  · exact emits_go_nil (nil_mem_atMostOne _) ⟨rfl, rfl, rfl⟩ rfl
  · exact ⟨⟨rfl, rfl, rfl⟩, _, singleton_mem_atMostOne ⟨w, rfl⟩, rfl⟩
  · exact emits_abandon_nil (nil_mem_atMostOne _)
  · trivial

theorem neverEnds_sendNext (ok : Bool) : (sendNext ok s).NeverEnds := by
  obtain ⟨-, e⟩ | ⟨-, w, -, -, e⟩ | ⟨-, w, -, -, e⟩ | ⟨-, f, -, e⟩ := sendNext_cases ok s <;> rw [e] <;> trivial

theorem emits_emitControl (ok : Bool) : (emitControl ok s).Emits s (portWrite .controlWord) := by
  obtain ⟨-, e⟩ | ⟨w, -, -, e⟩ | ⟨w, -, -, e⟩ := emitControl_cases ok s <;> rw [e]
  · exact emits_go_nil (nil_mem_atMostOne _) ⟨rfl, rfl, rfl⟩ rfl
  · exact ⟨⟨rfl, rfl, rfl⟩, _, singleton_mem_atMostOne ⟨w, rfl⟩, rfl⟩
  · exact emits_abandon_nil (nil_mem_atMostOne _)

theorem neverEnds_emitControl (ok : Bool) : (emitControl ok s).NeverEnds := by
  obtain ⟨-, e⟩ | ⟨w, -, -, e⟩ | ⟨w, -, -, e⟩ := emitControl_cases ok s <;> rw [e] <;> trivial

/-! ### Parts 1 to 3 -/

theorem emits_regReads (c : Cycle) : (regReads c s).Emits s 1 := by
  obtain ⟨-, -, e⟩ | ⟨-, e⟩ := regReads_cases c s <;> rw [e]
  · exact emits_go_nil Language.nil_mem_one ⟨rfl, rfl, rfl⟩ rfl
  · exact emits_abandon_nil Language.nil_mem_one

theorem emits_actOnStatus (sw : Word) : (actOnStatus sw s).Emits s 1 := by
  obtain ⟨-, e⟩ | ⟨-, e⟩ | ⟨-, e⟩ | ⟨-, e⟩ := actOnStatus_cases sw s <;> rw [e]
  · exact emits_go_nil Language.nil_mem_one ⟨rfl, rfl, rfl⟩ rfl
  · exact emits_go_nil Language.nil_mem_one ⟨rfl, rfl, rfl⟩ rfl
  · exact emits_raiseFail _ _
  · exact ⟨rfl, .inl rfl⟩

theorem emits_part2 (sw : Word) : (part2 sw s).Emits s 1 := by
  obtain ⟨-, e⟩ | ⟨-, -, e⟩ | ⟨-, -, e⟩ := part2_cases sw s <;> rw [e]
  · exact emits_go_nil Language.nil_mem_one ⟨rfl, rfl, rfl⟩ rfl
  · exact ⟨rfl, .inl rfl⟩
  · exact emits_of_sameSession (s := { s with timeoutCtr := s.timeoutCtr + 1 }) ⟨rfl, rfl, rfl⟩ rfl
      (emits_actOnStatus sw)

theorem emits_receive (v : Word) : (receive v s).Emits s 1 := by
  obtain ⟨-, e⟩ | ⟨-, -, -, e⟩ | ⟨-, -, -, -, e⟩ | ⟨-, -, -, -, e⟩ | ⟨-, -, e⟩ := receive_cases v s <;> rw [e]
  · exact emits_go_nil Language.nil_mem_one ⟨rfl, rfl, rfl⟩ rfl
  · exact ⟨rfl, .inl rfl⟩
  · exact emits_go_nil Language.nil_mem_one ⟨rfl, rfl, rfl⟩ rfl
  · trivial
  · exact emits_go_nil Language.nil_mem_one ⟨rfl, rfl, rfl⟩ rfl

/-! ### The arms of part 4 -/

theorem emits_appendPending : (appendPending s).Emits s 1 := by
  obtain ⟨-, e⟩ | ⟨-, -, e⟩ | ⟨-, -, e⟩ := appendPending_cases s <;> rw [e]
  · exact emits_go_nil Language.nil_mem_one ⟨rfl, rfl, rfl⟩ rfl
  · exact ⟨rfl, .inl rfl⟩
  · exact emits_go_nil Language.nil_mem_one ⟨rfl, rfl, rfl⟩ rfl

theorem emits_armInit : (armInit s).Emits s (deletePulse s) := by
  unfold armInit
  split
  · exact ⟨⟨rfl, rfl, rfl⟩, _, singleton_mem_atMostOne ⟨‹_›, rfl⟩, rfl⟩
  · exact emits_go_nil (nil_mem_atMostOne _) ⟨rfl, rfl, rfl⟩ rfl

theorem regWrite_go {p : OutPort} {ok : Bool} {v : Word} {u : State} (h : regWrite p ok v s = .go u) :
    u = emit (.write p v) s := by
  cases ok with
  | true => exact (Flow.go.inj h).symm
  | false => cases h

/-- The index first, then the block size (43_step_sequencer R207). -/
theorem emits_armSendcmd (indexOk valueOk : Bool) :
    (armSendcmd indexOk valueOk s).Emits s (indexWrite s * portWrite .valueOut) := by
  refine emits_of_sameSession (s := setToggle true s) ⟨rfl, rfl, rfl⟩ rfl ?_
  refine emits_andThen (emits_regWrite _ _ _) (nil_mem_atMostOne _)
    (fun _ => neverEnds_andThen (neverEnds_regWrite _ _ _) fun _ => neverEnds_go) fun _ _ _ => ?_
  exact emits_andThen_update (emits_regWrite_port _ _ _) fun _ => ⟨⟨rfl, rfl, rfl⟩, rfl⟩

theorem armSendcmd_go_state {indexOk valueOk : Bool} {u : State} (h : armSendcmd indexOk valueOk s = .go u) :
    u.state = s.state := by
  obtain ⟨v, hv, h⟩ := andThen_eq_go.1 h
  obtain ⟨w, hw, h⟩ := andThen_eq_go.1 h
  rw [← Flow.go.inj h, regWrite_go hw, regWrite_go hv]
  rfl

theorem sameSession_enterCurveinfo : SameSession s (enterCurveinfo s) ∧ (enterCurveinfo s).log = s.log := by
  unfold enterCurveinfo
  split <;> exact ⟨⟨rfl, rfl, rfl⟩, rfl⟩

theorem emits_armCurveinfo : (armCurveinfo s).Emits s 1 := by
  obtain ⟨⟨hdir, hid, hxfer⟩, hlog⟩ := sameSession_enterCurveinfo (s := s)
  unfold armCurveinfo
  split
  · exact emits_go_nil Language.nil_mem_one ⟨hdir, hid, hxfer⟩ hlog
  · exact emits_go_nil Language.nil_mem_one ⟨rfl, rfl, rfl⟩ rfl

theorem emits_enterSetpoints : (enterSetpoints s).Emits s 1 := by
  unfold enterSetpoints
  split <;> dsimp only <;> split
  · exact emits_go_nil Language.nil_mem_one ⟨rfl, rfl, rfl⟩ rfl
  · split
    · exact ⟨rfl, .inl rfl⟩
    · exact emits_go_nil Language.nil_mem_one ⟨rfl, rfl, rfl⟩ rfl
  · exact emits_go_nil Language.nil_mem_one ⟨rfl, rfl, rfl⟩ rfl
  · exact emits_of_sameSession (s := flipToggle s) ⟨rfl, rfl, rfl⟩ rfl emits_appendPending

theorem emits_armSetpoints : (armSetpoints s).Emits s 1 :=
  emits_andThen_update emits_enterSetpoints fun _ => ⟨⟨rfl, rfl, rfl⟩, rfl⟩

theorem emits_finishRead : (finishRead s).Emits s projectionPulse := by
  unfold finishRead
  split
  · exact emits_go_nil (nil_mem_atMostOne _) ⟨rfl, rfl, rfl⟩ rfl
  · exact emits_andThen_of_none emits_appendPending (nil_mem_atMostOne _) fun _ _ =>
      ⟨⟨rfl, rfl, rfl⟩, _, singleton_mem_atMostOne rfl, rfl⟩

/-- The session ends here: nothing after this arm is performed. -/
theorem emits_armFinished_andThen (f : State → Flow) : ((armFinished s).andThen f).Emits s projectionPulse := by
  have hread := emits_finishRead (s := s)
  unfold armFinished
  cases hfinish : finishRead s with
  | go u =>
    rw [hfinish] at hread
    exact ⟨hread.1.dir, .inr ⟨rfl, hread.2⟩⟩
  | ended u => rw [hfinish] at hread; exact hread
  | abandon k => rw [hfinish] at hread; exact hread
  | fault e => trivial

/-! ### Parts 4 to 7 -/

/-- Parts 5 to 7 of a step (43_step_sequencer R204, R205). -/
def sendAndControl (c : Cycle) (s : State) : Flow := (part5 c s).andThen (emitControl c.controlWr)

theorem neverEnds_part5 (c : Cycle) : (part5 c s).NeverEnds := by
  unfold part5
  split
  · exact neverEnds_sendNext _
  · trivial

theorem neverEnds_sendAndControl (c : Cycle) (u : State) : (sendAndControl c u).NeverEnds :=
  neverEnds_andThen (neverEnds_part5 c) fun _ => neverEnds_emitControl _

theorem emits_part5 (c : Cycle) : (part5 c s).Emits s (portWrite .valueOut) := by
  unfold part5
  split
  · exact emits_sendNext _
  · exact emits_go_nil (nil_mem_atMostOne _) ⟨rfl, rfl, rfl⟩ rfl

theorem emits_sendAndControl (c : Cycle) : (sendAndControl c s).Emits s exchange :=
  emits_andThen (emits_part5 c) (nil_mem_atMostOne _) (fun _ => neverEnds_emitControl _) fun _ _ _ =>
    emits_emitControl _

/-- Outside the data phases no word is sent from the cursor (43_step_sequencer R204). -/
theorem emits_sendAndControl_sendcmd (c : Cycle) (h : s.state = stSendCommand) :
    (sendAndControl c s).Emits s (portWrite .controlWord) := by
  have hpart5 : part5 c s = .go s := if_neg (by simp [h, stSendCommand, stCurveInfo, stSetpoints])
  rw [sendAndControl, hpart5, andThen_go]
  exact emits_emitControl _

theorem exchange_le_stepEvents : exchange ≤ stepEvents s := fun l hl =>
  .inl ⟨[], .inl (nil_mem_atMostOne _), l, hl, rfl⟩

/-- Part 4 makes its events before the exchange; only in `SendCommand` it writes `value_out` itself, and there part 5
does not. -/
theorem emits_part4 (c : Cycle) : ((part4 c s).andThen (sendAndControl c)).Emits s (stepEvents s) := by
  have hexchange := fun u => emits_sendAndControl (s := u) c
  unfold part4
  split_ifs with hinit hsend hcurve hset hfin
  · refine emits_mono ?_ (emits_andThen emits_armInit nil_mem_exchange (neverEnds_sendAndControl c)
      fun u _ _ => hexchange u)
    rw [stepEvents, add_mul, add_assoc]
    exact fun _ => .inl
  · refine emits_mono ?_ (emits_andThen (emits_armSendcmd _ _) (nil_mem_atMostOne _) (neverEnds_sendAndControl c)
      fun u hu _ => emits_sendAndControl_sendcmd c (by rw [armSendcmd_go_state hu, hsend]))
    rw [stepEvents, add_mul, mul_assoc]
    exact fun _ hl => .inl (.inr hl)
  · exact emits_mono exchange_le_stepEvents
      (emits_andThen_of_none emits_armCurveinfo nil_mem_exchange fun u _ => hexchange u)
  · exact emits_mono exchange_le_stepEvents
      (emits_andThen_of_none emits_armSetpoints nil_mem_exchange fun u _ => hexchange u)
  · exact emits_mono (fun _ => .inr) (emits_armFinished_andThen _)
  · exact emits_raiseFail _ _

/-- The seven parts: the first three add no event. -/
theorem emits_stepParts (c : Cycle) : (stepParts c s).Emits s (stepEvents s) :=
  emits_of_sameSession (s := clearChanged s) ⟨rfl, rfl, rfl⟩ rfl <|
    emits_stepEvents_of_none (emits_regReads c) fun _ =>
    emits_stepEvents_of_none (emits_part2 _) fun _ =>
    emits_stepEvents_of_none (emits_receive _) fun _ => emits_part4 c

/-! ### The step, and the tick -/

/-- What STEP and TICK do to the log and the direction: the events of one step, and none in a step that fails the
session. -/
structure StepLogs (s t : State) : Prop where
  dir : t.dir = s.dir
  events : ∃ l ∈ stepEvents s, t.log = s.log ++ l
  failure : s.xferState = .busy → t.xferState = .done → t.result = .failure → t.log = s.log

theorem stepLogs_self (s : State) : StepLogs s s := 
  ⟨rfl, ⟨[], nil_mem_stepEvents s, (List.append_nil _).symm⟩, fun _ _ _ => rfl⟩

/-- The lock stands in neither the log nor the registers of the session. -/
theorem stepLogs_of_setLock {t : State} {l : Lock} (h : StepLogs (setLock l s) t) : StepLogs s t :=
  ⟨h.dir, h.events, h.failure⟩

theorem stepLogs_giveBack {t : State} (h : StepLogs s t) : StepLogs s (giveBack t) := by
  obtain ⟨-, e⟩ | ⟨-, e⟩ := giveBack_cases t <;> rw [e]
  · exact ⟨h.dir, h.events, h.failure⟩
  · exact h

theorem stepLogs_settle {t : State} {x : Flow} (hx : x.Emits s (stepEvents s)) (h : settle s x = .next t) :
    StepLogs s t := by
  obtain rfl | rfl | ⟨k, rfl, rfl⟩ := settle_next h
  · obtain ⟨hsame, hevents⟩ := hx
    exact ⟨hsame.dir, hevents, fun hbusy hdone => by simp [hsame.xferState, hbusy] at hdone⟩
  · obtain ⟨hdir, hlog | ⟨hsuccess, hevents⟩⟩ := hx
    · exact ⟨hdir, ⟨[], nil_mem_stepEvents s, by rw [hlog, List.append_nil]⟩, fun _ _ _ => hlog⟩
    · exact ⟨hdir, hevents, fun _ _ hfail => by simp [hsuccess] at hfail⟩
  · exact ⟨rfl, hx, fun hbusy hdone => by simp [hbusy] at hdone⟩

theorem stepLogs_runStep {t : State} {c : Cycle} (h : runStep c s = .next t) : StepLogs s t :=
  stepLogs_of_setLock (l := .stepped) (stepLogs_settle (emits_stepParts c) h)

theorem stepLogs_stepOnce {t : State} {c : Cycle} (h : stepOnce c s = .next t) : StepLogs s t := by
  obtain ⟨-, -, e⟩ | ⟨-, e⟩ := stepOnce_cases c s <;> rw [e] at h
  · exact stepLogs_runStep h
  · exact Host.Outcome.next.inj h ▸ stepLogs_self s

theorem stepLogs_execTick {t : State} {c : Cycle} {granted : Bool} (h : execTick c granted s = .next t) :
    StepLogs s t := by
  obtain ⟨-, e⟩ | ⟨-, -, -, e⟩ | ⟨-, -, -, e⟩ | ⟨-, -, e⟩ := execTick_cases c granted s <;> rw [e] at h
  · exact Host.Outcome.next.inj h ▸ stepLogs_self s
  · cases hrun : runStep c (setLock .held s) with
    | next u =>
      rw [hrun, afterStep_next] at h
      rw [← Host.Outcome.next.inj h]
      exact stepLogs_giveBack (stepLogs_of_setLock (stepLogs_runStep hrun))
    | fault e => rw [hrun] at h; cases h
    | refused r => rw [hrun] at h; cases h
  · exact Host.Outcome.next.inj h ▸ stepLogs_of_setLock (stepLogs_self (setLock .waiting s))
  · cases h

/-- Of the operations that can run a step, all that is said of the log. -/
theorem stepLogs_exec {t : State} {c : Cycle} {i : Instr} (hi : brings c i) (h : exec i s = .next t) :
    StepLogs s t := by
  obtain rfl | ⟨granted, rfl⟩ := hi
  · exact stepLogs_stepOnce h
  · exact stepLogs_execTick h

end

/-- Settles O47: the events of `stepEvents`, written out. -/
theorem stepAccessesEachEndpointOnceInOrder : Obligations.StepAccessesEachEndpointOnceInOrder := by
  intro s t c i hi hexec
  obtain ⟨hdir, ⟨l, hl, hlog⟩, hfailure⟩ := stepLogs_exec hi hexec
  refine ⟨?_, hfailure⟩
  obtain ⟨a, ha, b, hb, rfl⟩ | hp := hl
  · obtain ⟨v, hv, w, hw, rfl⟩ := hb
    have hv' := eq_nil_or_portWrite hv
    have hw' := eq_nil_or_portWrite hw
    obtain hd | hx := ha
    · refine ⟨a, [], v, w, [], by simp [hlog], ?_, .inl rfl, hv', hw', .inl rfl⟩
      exact hd.imp_right fun ⟨e, ⟨hwrite, he⟩, ha⟩ => ⟨he ▸ ha, hdir.trans hwrite, rfl⟩
    · refine ⟨[], a, v, w, [], by simp [hlog], .inl rfl, ?_, hv', hw', .inl rfl⟩
      exact hx.imp_right fun ⟨_, rfl, ha⟩ => ha.trans (by rw [iwBits_eq_ofNat])
  · refine ⟨[], [], [], [], l, by simp [hlog], .inl rfl, .inl rfl, .inl rfl, .inl rfl, ?_⟩
    exact hp.imp_right fun ⟨e, he, hl⟩ => ⟨he ▸ hl, rfl, rfl, rfl, rfl⟩

end Sys2Proof.Machine
end

section
/-! Readers (30_encoding; log 1): what a guarded reader reads, the frame of each operation, and which tags are an
operation's. -/

namespace Sys2Proof

/-! ### Readers that end in a guard -/

/-- Reading a last thing, and what is made of it takes no more bytes. -/
theorem Reads.last {α β : Type} {p : Reader α} {f : α → Reader β} {l : List Byte} {a : α} {b : β}
    (hp : Reads p l a) (hf : Reads (f a) [] b) : Reads (rdThen p f) l b := by
  have h := Reads.andThen hp hf
  rwa [List.append_nil] at h

theorem Reads.of_pos {α : Type} {c : Prop} [Decidable c] {p q : Reader α} {l : List Byte} {a : α}
    (hc : c) (h : Reads p l a) : Reads (if c then p else q) l a := by
  rwa [if_pos hc]

theorem Reads.of_neg {α : Type} {c : Prop} [Decidable c] {p q : Reader α} {l : List Byte} {a : α}
    (hc : ¬ c) (h : Reads q l a) : Reads (if c then p else q) l a := by
  rwa [if_neg hc]

/-- Giving a value that equals the one wanted. -/
theorem Reads.pure_of_eq {α : Type} {a b : α} (h : a = b) : Reads (rdPure a) [] b := h ▸ Reads.pure a

/-! ### The words of the formats (30_encoding R101 to R109) -/

/-- The toggle is bit 0 of a control word (30_encoding R101). -/
theorem cwLow_true_ne (phase : BitVec 2) : cwLow phase true ≠ cwLow phase false := by
  revert phase; decide

theorem echoOf_true_ne (base : Byte) : echoOf base true ≠ echoOf base false := by
  simp [echoOf, bit]

theorem reads_cwFixed {low : Byte} {phase : BitVec 2} {t : Bool} (hlow : low = cwLow phase t)
    (mk : BitVec 24 → Bool → Instr) (m : BitVec 24) (ok : Bool) :
    Reads (rdCwFixed low mk) (le32 (cwBits m phase t) ++ encBit ok) (mk m ok) :=
  Reads.andThen (reads_word _) <| Reads.last (reads_bit ok) <|
    Reads.of_pos (by rw [lowByte_cwBits, hlow]) <| Reads.pure_of_eq (by rw [mode_cwBits])

theorem reads_cwToggle (phase : BitVec 2) (mk : BitVec 24 → Bool → Bool → Instr) (m : BitVec 24) (t ok : Bool) :
    Reads (rdCwToggle phase mk) (le32 (cwBits m phase t) ++ encBit ok) (mk m t ok) := by
  refine Reads.andThen (reads_word _) <| Reads.last (reads_bit ok) ?_
  have hvalue : ∀ u, mk ((cwBits m phase t).extractLsb' 8 24) u ok = mk m u ok := fun u => by rw [mode_cwBits]
  cases t with
  | false => exact Reads.of_pos (lowByte_cwBits ..) <| Reads.pure_of_eq (hvalue false)
  | true =>
    exact Reads.of_neg (by rw [lowByte_cwBits]; exact cwLow_true_ne phase) <|
      Reads.of_pos (lowByte_cwBits ..) <| Reads.pure_of_eq (hvalue true)

theorem reads_swExact (v : Word) (i : Instr) : Reads (rdSwExact v i) (le32 v) i :=
  Reads.last (reads_word v) <| Reads.of_pos rfl <| Reads.pure i

theorem reads_swToggle (base : Word) (mk : Bool → Instr) (t : Bool) :
    Reads (rdSwToggle base mk) (le32 (base + bit 32 t)) (mk t) := by
  refine Reads.last (reads_word _) ?_
  cases t with
  | false => exact Reads.of_pos (by simp [bit]) (Reads.pure _)
  | true => exact Reads.of_neg (by simp [bit]) <| Reads.of_pos rfl (Reads.pure _)

theorem reads_swErr {c : Byte} (hc : errCodeOk c = true) (echo : Byte) (mk : Half → Byte → Instr) (u : Half) :
    Reads (rdSwErr echo mk) (le32 (swBits u c echo)) (mk u c) :=
  Reads.last (reads_word _) <| Reads.of_pos ⟨lowByte_swBits .., by rw [codeByte_swBits, hc]⟩ <|
    Reads.pure_of_eq (by rw [upper_swBits, codeByte_swBits])

theorem reads_swErrToggle {u : Half} {c : Byte} (hc : (errCodeOk c && notSteadyCode u c) = true) (base : Byte)
    (mk : Half → Byte → Bool → Instr) (t : Bool) :
    Reads (rdSwErrToggle base mk) (le32 (swBits u c (echoOf base t))) (mk u c t) := by
  refine Reads.last (reads_word _) <| Reads.of_pos (by rw [codeByte_swBits, upper_swBits, hc]) ?_
  have hvalue : ∀ v, mk (upper (swBits u c (echoOf base t))) (codeByte (swBits u c (echoOf base t))) v = mk u c v :=
    fun v => by rw [upper_swBits, codeByte_swBits]
  cases t with
  | false => exact Reads.of_pos (lowByte_swBits ..) <| Reads.pure_of_eq (hvalue false)
  | true =>
    exact Reads.of_neg (by rw [lowByte_swBits]; exact echoOf_true_ne base) <|
      Reads.of_pos (lowByte_swBits ..) <| Reads.pure_of_eq (hvalue true)

theorem reads_swNomatch {echo : Byte} {sw : Word} (h : noClassOf echo sw = true) (mk : Word → Instr) :
    Reads (rdSwNomatch echo mk) (le32 sw) (mk sw) :=
  Reads.last (reads_word sw) <| Reads.of_pos h <| Reads.pure _

/-! ### The tags -/

/-- The tags of the operations: the rows of the table, and the word alone (log 1). -/
def isRowTag (tag : Byte) : Prop := tag.toNat < 128 ∨ tag = bareTag

theorem rdHostWrite_of_isRowTag {tag : Byte} (h : isRowTag tag) : rdHostWrite tag = none := by
  obtain h | rfl := h
  · unfold rdHostWrite
    split
    case h_10 => rfl
    all_goals omega
  · rfl

theorem rdHostRead_of_isRowTag {tag : Byte} (h : isRowTag tag) : rdHostRead tag = none := by
  obtain h | rfl := h
  · unfold rdHostRead
    split
    case h_4 => rfl
    all_goals omega
  · rfl

theorem rdRow_of_not_isRowTag {tag : Byte} (h : ¬ isRowTag tag) : rdRow tag = rdFail (.unknownTag tag) := by
  obtain ⟨hlow, hbare⟩ := not_or.1 h
  have hword : rdWordRow tag = none := by
    unfold rdWordRow
    split
    case h_29 => rfl
    all_goals omega
  have hhost : rdHostRow tag = none := by
    unfold rdHostRow
    split
    case h_19 => rfl
    all_goals omega
  have hengine : rdEngineRow tag = none := by
    unfold rdEngineRow
    split
    case h_30 => rfl
    all_goals omega
  simp only [rdRow, if_neg hbare, hword, hhost, hengine]

/-- An operation's frame is that operation's event. -/
theorem decodeEvent_of_isRowTag {tag : Byte} (h : isRowTag tag) (bs : List Byte) :
    decodeEvent (tag :: bs) = rdThen (rdRow tag) (fun i => rdPure (.instr i)) bs := by
  simp only [decodeEvent, rdHostWrite_of_isRowTag h, rdHostRead_of_isRowTag h]

theorem decodeEvent_of_decode {bs rest : List Byte} {i : Instr} (h : decode bs = .ok (i, rest)) :
    decodeEvent bs = .ok (.instr i, rest) := by
  cases bs with
  | nil => cases h
  | cons tag bs =>
    have hrow : rdRow tag bs = .ok (i, rest) := h
    by_cases htag : isRowTag tag
    · simp only [decodeEvent_of_isRowTag htag, rdThen, hrow, rdPure_apply]
    · rw [rdRow_of_not_isRowTag htag] at hrow
      cases hrow

/-! ### The frame of each operation -/

/-- These bytes are a tag and what the reader of the tag reads as this operation. -/
def FrameOf (i : Instr) (l : List Byte) : Prop := ∃ tag body, l = tag :: body ∧ Reads (rdRow tag) body i

theorem frameOf (tag : Byte) {body : List Byte} {i : Instr} (h : Reads (rdRow tag) body i) : FrameOf i (tag :: body) :=
  ⟨tag, body, rfl, h⟩

theorem decode_of_frameOf {i : Instr} {l : List Byte} (h : FrameOf i l) (rest : List Byte) :
    decode (l ++ rest) = .ok (i, rest) := by
  obtain ⟨tag, body, rfl, hbody⟩ := h
  exact hbody rest

/-- The frame of every row: one arm per row of spec/opcode_table.json, in the table's order. -/
theorem frameOf_encode : (i : Instr) → i.wf = true → FrameOf i (encode i)
  | .cwInit _ ok, _ => frameOf 0 (Reads.andThen (reads_word _) (Reads.andPure (reads_bit ok)))
  | .cwSendcmdW m ok, _ => frameOf 1 (reads_cwFixed (by decide) _ m ok)
  | .cwSendcmdR m ok, _ => frameOf 2 (reads_cwFixed (by decide) _ m ok)
  | .cwCurveinfoW m t ok, _ => frameOf 3 (reads_cwToggle 1 _ m t ok)
  | .cwCurveinfoR m t ok, _ => frameOf 4 (reads_cwToggle 1 _ m t ok)
  | .cwSetpointsW m t ok, _ => frameOf 5 (reads_cwToggle 2 _ m t ok)
  | .cwSetpointsR m t ok, _ => frameOf 6 (reads_cwToggle 2 _ m t ok)
  | .swInitAdv, _ => frameOf 7 (reads_swExact _ _)
  | .swInitSteady, _ => frameOf 8 (Reads.pure _)
  | .swInitErr u _, h => frameOf 9 (reads_swErr h _ _ u)
  | .swInitNomatch _, h => frameOf 10 (reads_swNomatch h _)
  | .swSendcmdAdv, _ => frameOf 11 (reads_swExact _ _)
  | .swSendcmdSteady, _ => frameOf 12 (Reads.pure _)
  | .swSendcmdErr u _, h => frameOf 13 (reads_swErr h _ _ u)
  | .swSendcmdNomatch _, h => frameOf 14 (reads_swNomatch h _)
  | .swCurveinfoAdv t, _ => frameOf 15 (reads_swToggle _ _ t)
  | .swCurveinfoSteady t, _ => frameOf 16 (reads_swToggle _ _ t)
  | .swCurveinfoErr _ _ t, h => frameOf 17 (reads_swErrToggle h _ _ t)
  | .swCurveinfoNomatch _, _ => frameOf 18 (Reads.andPure (reads_word _))
  | .swSetpointsAdv t, _ => frameOf 19 (reads_swToggle _ _ t)
  | .swSetpointsSteady t, _ => frameOf 20 (reads_swToggle _ _ t)
  | .swSetpointsErr _ _ t, h => frameOf 21 (reads_swErrToggle h _ _ t)
  | .swSetpointsNomatch _, _ => frameOf 22 (Reads.andPure (reads_word _))
  | .iw i ok, _ => frameOf 23 <| Reads.andThen (reads_word _) <| Reads.last (reads_bit ok) <|
      Reads.of_pos (upper_iwBits i) <| Reads.pure_of_eq (by rw [low_iwBits])
  | .bw n ok, _ => frameOf 24 <| Reads.andThen (reads_word _) <| Reads.last (reads_bit ok) <|
      Reads.of_pos (low_bwBits n) <| Reads.pure_of_eq (by rw [count_bwBits])
  | .dw _ ok, _ => frameOf 25 (Reads.andThen (reads_word _) (Reads.andPure (reads_bit ok)))
  | .pw _ ok, _ => frameOf 26 (Reads.andThen (reads_word _) (Reads.andPure (reads_bit ok)))
  | .record f p0 p1, _ => frameOf 27 <| Reads.andThen (reads_fields f) <|
      Reads.andThen (reads_byte p0) (Reads.andPure (reads_byte p1))
  | .pack f, _ => frameOf 28 (Reads.andPure (reads_fields f))
  | .unpack, _ => frameOf 29 (Reads.pure _)
  | .setName s, h => frameOf 30 (Reads.andPure (reads_name s h))
  | .blocksize n, _ => frameOf 31 (Reads.andPure (reads_half n))
  | .dump, _ => frameOf 32 (Reads.pure _)
  | .xlenEncode n dt, _ => frameOf 33 (Reads.andThen (reads_long n) (Reads.andPure (reads_long dt)))
  | .xlenDecode x n, _ => frameOf 34 (Reads.andThen (reads_word x) (Reads.andPure (reads_half n)))
  | .posEncode k p, _ => frameOf 35 (Reads.andThen (reads_half k) (Reads.andPure (reads_long p)))
  | .posDecode w, _ => frameOf 36 (Reads.andPure (reads_word w))
  | .project a, _ => frameOf 37 (Reads.andPure (reads_projectArgs a))
  | .reqWrite id count ok, _ => frameOf 38 <| by
      rw [List.append_assoc]
      exact Reads.andThen (reads_half id) (Reads.andThen (reads_half count) (Reads.andPure (reads_bit ok)))
  | .reqRead id, _ => frameOf 39 (Reads.andPure (reads_half id))
  | .sessionInit, _ => frameOf 40 (Reads.pure _)
  | .rejBusy r, _ => frameOf 41 (Reads.andPure (reads_request r))
  | .rejInvalidId r, _ => frameOf 42 (Reads.andPure (reads_request r))
  | .rejInvalidDuration r, _ => frameOf 43 (Reads.andPure (reads_request r))
  | .rejInvalidCount r, _ => frameOf 44 (Reads.andPure (reads_request r))
  | .sinkRead, _ => frameOf 45 (Reads.pure _)
  | .step c, _ => frameOf 46 (Reads.andPure (reads_cycle c))
  | .stepInit, _ => frameOf 47 (Reads.pure _)
  | .stepSendcmd i v, _ => frameOf 48 (Reads.andThen (reads_bit i) (Reads.andPure (reads_bit v)))
  | .stepCurveinfo, _ => frameOf 49 (Reads.pure _)
  | .stepSetpoints, _ => frameOf 50 (Reads.pure _)
  | .stepFinished, _ => frameOf 51 (Reads.pure _)
  | .stepUnknown, _ => frameOf 52 (Reads.pure _)
  | .toggleSet1, _ => frameOf 53 (Reads.pure _)
  | .toggleFlipCurveinfo, _ => frameOf 54 (Reads.pure _)
  | .toggleReset0, _ => frameOf 55 (Reads.pure _)
  | .toggleFlipSetpoints, _ => frameOf 56 (Reads.pure _)
  | .classify sw, _ => frameOf 57 (Reads.andPure (reads_word sw))
  | .txLoadDesc, _ => frameOf 58 (Reads.pure _)
  | .txLoadSp, _ => frameOf 59 (Reads.pure _)
  | .txNext ok, _ => frameOf 60 (Reads.andPure (reads_bit ok))
  | .rxArmDesc, _ => frameOf 61 (Reads.pure _)
  | .rxArmSp, _ => frameOf 62 (Reads.pure _)
  | .rxPush vin, _ => frameOf 63 (Reads.andPure (reads_word vin))
  | .spAppend, _ => frameOf 64 (Reads.pure _)
  | .tmoTick, _ => frameOf 65 (Reads.pure _)
  | .tmoExpire, _ => frameOf 66 (Reads.pure _)
  | .tmoArm, _ => frameOf 67 (Reads.pure _)
  | .errDevice sw, _ => frameOf 68 (Reads.andPure (reads_word sw))
  | .fail k c, _ => frameOf 69 (Reads.andThen (reads_cause k) (Reads.andPure (reads_byte c)))
  | .tick c g, _ => frameOf 70 (Reads.andThen (reads_cycle c) (Reads.andPure (reads_bit g)))
  | .tickIdle, _ => frameOf 71 (Reads.pure _)
  | .lockAcq g, _ => frameOf 72 (Reads.andPure (reads_bit g))
  | .lockRel, _ => frameOf 73 (Reads.pure _)
  | .reset, _ => frameOf 74 (Reads.pure _)

/-! ### The frames of the host's writes and reads -/

theorem decodeEvent_hostWrite {tag : Byte} {p : Reader HostWrite} {body : List Byte} {w : HostWrite}
    (htag : rdHostWrite tag = some p) (h : Reads p body w) (rest : List Byte) :
    decodeEvent (tag :: body ++ rest) = .ok (.host w, rest) := by
  simpa only [List.cons_append, decodeEvent, htag] using Reads.andPure (f := Event.host) h rest

theorem decodeEvent_hostRead {tag : Byte} {p : Reader HostRead} {body : List Byte} {r : HostRead}
    (hwrite : rdHostWrite tag = none) (htag : rdHostRead tag = some p) (h : Reads p body r) (rest : List Byte) :
    decodeEvent (tag :: body ++ rest) = .ok (.read r, rest) := by
  simpa only [List.cons_append, decodeEvent, hwrite, htag] using Reads.andPure (f := Event.read) h rest

/-- An index below 256 comes back from its byte; the guard is the index's bound. -/
theorem reads_index {α : Type} {n : Nat} (hn : n ≤ 256) (k : Fin n) (mk : Fin n → α) (e : Reader α) :
    Reads (if h : (BitVec.ofNat 8 k.val).toNat < n then rdPure (mk ⟨(BitVec.ofNat 8 k.val).toNat, h⟩) else e) []
      (mk k) := by
  have hk : (BitVec.ofNat 8 k.val).toNat = k.val := by
    rw [BitVec.toNat_ofNat]; exact Nat.mod_eq_of_lt (by omega)
  rw [dif_pos (hk.trans_lt k.isLt)]
  exact Reads.pure_of_eq (congrArg mk (Fin.ext hk))

theorem decodeEvent_encodeHost (rest : List Byte) :
    (w : HostWrite) → decodeEvent (encodeHost w ++ rest) = .ok (.host w, rest)
  | .objectType v => decodeEvent_hostWrite (tag := 128) rfl (Reads.andPure (reads_half v)) rest
  | .nameRaw v => decodeEvent_hostWrite (tag := 129) rfl (Reads.andPure (reads_bytes v)) rest
  | .xLength v => decodeEvent_hostWrite (tag := 130) rfl (Reads.andPure (reads_word v)) rest
  | .xDimUuid v => decodeEvent_hostWrite (tag := 131) rfl (Reads.andPure (reads_half v)) rest
  | .yDimUuid v => decodeEvent_hostWrite (tag := 132) rfl (Reads.andPure (reads_half v)) rest
  | .wizardType v => decodeEvent_hostWrite (tag := 133) rfl (Reads.andPure (reads_half v)) rest
  | .wizardParam j v => decodeEvent_hostWrite (tag := 134) rfl
      (Reads.andThen (reads_byte (BitVec.ofNat 8 j.val)) <| Reads.last (reads_word v) <|
        reads_index (by decide) j (HostWrite.wizardParam · v) _) rest
  | .setpoint i v =>
      decodeEvent_hostWrite (tag := 135) rfl (Reads.andThen (reads_half i) (Reads.andPure (reads_word v))) rest
  | .setpointCount v => decodeEvent_hostWrite (tag := 136) rfl (Reads.andPure (reads_half v)) rest

theorem decodeEvent_encodeRead (rest : List Byte) :
    (r : HostRead) → decodeEvent (encodeRead r ++ rest) = .ok (.read r, rest)
  | .descWord k => decodeEvent_hostRead (tag := 137) rfl rfl
      (Reads.last (reads_byte (BitVec.ofNat 8 k.val)) (reads_index (by decide) k HostRead.descWord _)) rest
  | .setpoint i => decodeEvent_hostRead (tag := 138) rfl rfl (Reads.andPure (reads_half i)) rest
  | .dataRegs => decodeEvent_hostRead (tag := 139) rfl rfl (Reads.pure _) rest

/-- Settles O1: the frame of each row (`frameOf_encode`), of each host write and of each host read. -/
theorem decodeGivesBackWhatWasEncoded : Obligations.DecodeGivesBackWhatWasEncoded := by
  refine ⟨fun i rest hwf => ?_, fun w rest => decodeEvent_encodeHost rest w,
    fun r rest => decodeEvent_encodeRead rest r⟩
  have hdecode := decode_of_frameOf (frameOf_encode i hwf) rest
  exact ⟨hdecode, decodeEvent_of_decode hdecode⟩

end Sys2Proof
end

section
/-! What the decoder can answer (30_encoding R113; 44_toggle_status_decode R241 to R244): a word alone is read as a row
with its bits, and every operation read is well-formed. -/

namespace Sys2Proof

/-! ### A word put together from its fields -/

theorem swBits_of_lowByte {w : Word} {e : Byte} (h : lowByte w = e) : swBits (upper w) (codeByte w) e = w := by
  subst h
  apply BitVec.eq_of_getLsbD_eq
  intro i hi
  simp only [swBits, upper, codeByte, lowByte, BitVec.getLsbD_append, BitVec.getLsbD_extractLsb']
  split_ifs with hlow hmid
  · simp [hlow]
  · simp only [hmid, decide_true, Bool.true_and]; congr 1; omega
  · have hhigh : i - 8 - 8 < 16 := by omega
    simp only [hhigh, decide_true, Bool.true_and]; congr 1; omega

theorem bwBits_of_low {w : Word} (h : w.extractLsb' 0 18 = 70) : bwBits (w.extractLsb' 18 14) = w := by
  have hfixed : (0 : BitVec 2) ++ (70 : Half) = w.extractLsb' 0 18 := by rw [h]; rfl
  apply BitVec.eq_of_getLsbD_eq
  intro i hi
  rw [bwBits, BitVec.append_assoc]
  simp only [hfixed, BitVec.getLsbD_append, BitVec.getLsbD_extractLsb', BitVec.getLsbD_cast]
  split_ifs with hlow
  · simp [hlow]
  · have hhigh : i - 18 < 14 := by omega
    simp only [hhigh, decide_true, Bool.true_and]; congr 1; omega

theorem iwBits_of_upper {w : Word} (h : upper w = 0) : iwBits (w.extractLsb' 0 16) = w := by
  have hupper : w.toNat / 2 ^ 16 % 2 ^ 16 = 0 := by
    simpa [upper, BitVec.extractLsb'_toNat, Nat.shiftRight_eq_div_pow] using congrArg BitVec.toNat h
  apply BitVec.eq_of_toNat_eq
  simp only [iwBits, BitVec.toNat_setWidth, BitVec.extractLsb'_toNat, Nat.shiftRight_zero]
  omega

theorem errCodeOk_eq_false_iff {c : Byte} : errCodeOk c = false ↔ c = 0 := by simp [errCodeOk]

/-- A word with the echo of Init or SendCommand that is neither the advance code nor has an error code is in no class
there (44_toggle_status_decode R241, R242). -/
theorem noClassOf_of_not_err {echo : Byte} {w : Word} (hadv : w ≠ echo.setWidth 32)
    (herr : ¬ errCodeOk (codeByte w) = true) : noClassOf echo w = true := by
  have hcode : w.extractLsb' 8 8 = 0 := errCodeOk_eq_false_iff.1 (Bool.eq_false_iff.2 herr)
  simp [noClassOf, hadv, hcode]

/-- A word that is not the steady code with its own echo byte has not the steady code's fields (R243, R244). -/
theorem notSteadyCode_of_ne {w : Word} (h : w ≠ swBits 0 4 (lowByte w)) :
    notSteadyCode (upper w) (codeByte w) = true := by
  by_contra hsteady
  have hfields : upper w = 0 ∧ codeByte w = 4 := by simpa [notSteadyCode] using hsteady
  exact h (by rw [← hfields.1, ← hfields.2, swBits_of_lowByte rfl])

/-! ### A word alone -/

/-- The toggle an echo byte of a data phase carries (30_encoding R105). -/
theorem echoOf_decide {base e : Byte} (h : e = base ∨ e = base + 1) : echoOf base (decide (e = base + 1)) = e := by
  obtain rfl | rfl := h <;> simp [echoOf, bit]

/-- The row has the bits of this word and is well-formed. -/
def RowOf (w : Word) (i : Instr) : Prop := wordOf i = some w ∧ i.wf = true

section
variable {w : Word}

/-- A row whose word is this number by the tables, and which has no condition beside it. -/
theorem rowOf_eq {v : Word} {i : Instr} (h : w = v) (hword : wordOf i = some v) (hwf : i.wf = true) : RowOf w i :=
  ⟨h ▸ hword, hwf⟩

theorem rowOf_ite {c : Prop} [Decidable c] {i j : Instr} (hi : c → RowOf w i) (hj : ¬ c → RowOf w j) :
    RowOf w (if c then i else j) := by
  split_ifs with hc
  · exact hi hc
  · exact hj hc

theorem rowOf_option_ite {c : Prop} [Decidable c] {x y : Option Instr} (hx : c → ∀ i ∈ x, RowOf w i)
    (hy : ¬ c → ∀ i ∈ y, RowOf w i) : ∀ i ∈ if c then x else y, RowOf w i := by
  split_ifs with hc
  · exact hx hc
  · exact hy hc

theorem rowOf_some {j : Instr} (h : RowOf w j) : ∀ i ∈ some j, RowOf w i := fun _ hi => Option.some.inj hi ▸ h

/-- The row of an error word of a data phase: a word that is neither of the two steady codes. -/
theorem rowOf_errToggle {base : Byte} {mk : Half → Byte → Bool → Instr}
    (hword : ∀ u c t, wordOf (mk u c t) = some (swBits u c (echoOf base t)))
    (hwf : ∀ u c t, (mk u c t).wf = (errCodeOk c && notSteadyCode u c))
    (hecho : lowByte w = base ∨ lowByte w = base + 1) (h0 : w ≠ swBits 0 4 base) (h1 : w ≠ swBits 0 4 (base + 1))
    (herr : errCodeOk (codeByte w) = true) :
    RowOf w (mk (upper w) (codeByte w) (decide (lowByte w = base + 1))) := by
  have hsteady : notSteadyCode (upper w) (codeByte w) = true :=
    notSteadyCode_of_ne (by obtain h | h := hecho <;> rwa [h])
  exact ⟨by rw [hword, swBits_of_lowByte (echoOf_decide hecho).symm], by rw [hwf, herr, hsteady]; rfl⟩

end

/-- The row named for a word alone, branch by branch of the decoder. -/
theorem rowOf_decodeBare (w : Word) : ∀ i ∈ decodeBare w, RowOf w i := by
  unfold decodeBare
  refine rowOf_option_ite (fun hecho => rowOf_some ?init) fun _ =>
    rowOf_option_ite (fun hecho => rowOf_some ?sendCommand) fun _ =>
    rowOf_option_ite (fun hecho => rowOf_some ?curveInfo) fun _ =>
    rowOf_option_ite (fun hecho => rowOf_some ?setpoints) fun _ =>
    rowOf_option_ite (fun hlow => rowOf_some ?blockSize) fun _ =>
    rowOf_option_ite (fun hupper => rowOf_some ?index) fun _ => nofun
  case init =>
    exact rowOf_ite (fun h => rowOf_eq h rfl rfl) fun hadv =>
      rowOf_ite (fun herr => ⟨congrArg some (swBits_of_lowByte hecho), herr⟩) fun herr =>
      ⟨rfl, noClassOf_of_not_err hadv herr⟩
  case sendCommand =>
    exact rowOf_ite (fun h => rowOf_eq h rfl rfl) fun hadv =>
      rowOf_ite (fun herr => ⟨congrArg some (swBits_of_lowByte hecho), herr⟩) fun herr =>
      ⟨rfl, noClassOf_of_not_err hadv herr⟩
  case curveInfo =>
    exact rowOf_ite (fun h => rowOf_eq h rfl rfl) fun _ => rowOf_ite (fun h => rowOf_eq h rfl rfl) fun _ =>
      rowOf_ite (fun h => rowOf_eq h rfl rfl) fun h0 => rowOf_ite (fun h => rowOf_eq h rfl rfl) fun h1 =>
      rowOf_ite (rowOf_errToggle (base := 2) (fun _ _ _ => rfl) (fun _ _ _ => rfl) hecho h0 h1) fun _ => ⟨rfl, rfl⟩
  case setpoints =>
    exact rowOf_ite (fun h => rowOf_eq h rfl rfl) fun _ => rowOf_ite (fun h => rowOf_eq h rfl rfl) fun _ =>
      rowOf_ite (fun h => rowOf_eq h rfl rfl) fun h0 => rowOf_ite (fun h => rowOf_eq h rfl rfl) fun h1 =>
      rowOf_ite (rowOf_errToggle (base := 4) (fun _ _ _ => rfl) (fun _ _ _ => rfl) hecho h0 h1) fun _ => ⟨rfl, rfl⟩
  case blockSize => exact ⟨congrArg some (bwBits_of_low hlow), rfl⟩
  case index => exact ⟨congrArg some (iwBits_of_upper hupper), rfl⟩

/-- Settles O3: the first half of `rowOf_decodeBare`. -/
theorem bareWordDecodesToARowWithItsBits : Obligations.BareWordDecodesToARowWithItsBits :=
  fun w i h => (rowOf_decodeBare w i h).1

/-- Settles O4: the bytes of each word alone, read back. -/
theorem wordsOfTheSpecDecodeToTheirRows : Obligations.WordsOfTheSpecDecodeToTheirRows := by
  unfold Obligations.WordsOfTheSpecDecodeToTheirRows
  decide

/-! ### What a reader can give -/

/-- Whatever this reader gives satisfies `P`. -/
def Gives {α : Type} (P : α → Prop) (p : Reader α) : Prop := ∀ bs a rest, p bs = .ok (a, rest) → P a

/-- Whatever this reader gives is a well-formed operation. -/
abbrev GivesWf (p : Reader Instr) : Prop := Gives (fun i => i.wf = true) p

section
variable {α β : Type} {P : α → Prop} {Q : β → Prop}

theorem gives_pure {a : α} (h : P a) : Gives P (rdPure a) := by
  intro bs b rest hb
  rw [rdPure_apply, Except.ok.injEq, Prod.mk.injEq] at hb
  exact hb.1 ▸ h

theorem gives_fail (r : Reject) : Gives P (rdFail r) := nofun

/-- A reader after another whose values satisfy `P`. -/
theorem gives_then {p : Reader α} {f : α → Reader β} (hp : Gives P p) (hf : ∀ a, P a → Gives Q (f a)) :
    Gives Q (rdThen p f) := by
  intro bs b rest hb
  unfold rdThen at hb
  cases hread : p bs with
  | error r => rw [hread] at hb; cases hb
  | ok x =>
    obtain ⟨a, rest'⟩ := x
    rw [hread] at hb
    exact hf a (hp bs a rest' hread) rest' b rest hb

/-- A reader after another of whose values nothing is needed. -/
theorem gives_after {p : Reader α} {f : α → Reader β} (hf : ∀ a, Gives Q (f a)) : Gives Q (rdThen p f) :=
  gives_then (P := fun _ => True) (fun _ _ _ _ => trivial) fun a _ => hf a

theorem gives_ite {c : Prop} [Decidable c] {p q : Reader α} (hp : c → Gives P p) (hq : ¬ c → Gives P q) :
    Gives P (if c then p else q) := by
  split_ifs with hc
  · exact hp hc
  · exact hq hc

/-- A value under a guard, the word rejected elsewhere. -/
theorem gives_guard {c : Prop} [Decidable c] {a : α} {r : Reject} (h : c → P a) :
    Gives P (if c then rdPure a else rdFail r) :=
  gives_ite (fun hc => gives_pure (h hc)) fun _ => gives_fail r

end

/-! ### The readers of the rows with a condition beside their fixed bits -/

theorem givesWf_cwFixed (low : Byte) {mk : BitVec 24 → Bool → Instr} (h : ∀ m ok, (mk m ok).wf = true) :
    GivesWf (rdCwFixed low mk) :=
  gives_after fun _ => gives_after fun ok => gives_guard fun _ => h _ ok

theorem givesWf_cwToggle (phase : BitVec 2) {mk : BitVec 24 → Bool → Bool → Instr}
    (h : ∀ m t ok, (mk m t ok).wf = true) : GivesWf (rdCwToggle phase mk) :=
  gives_after fun _ => gives_after fun ok =>
    gives_ite (fun _ => gives_pure (h _ false ok)) fun _ => gives_guard fun _ => h _ true ok

theorem givesWf_swExact (v : Word) {i : Instr} (h : i.wf = true) : GivesWf (rdSwExact v i) :=
  gives_after fun _ => gives_guard fun _ => h

theorem givesWf_swToggle (base : Word) {mk : Bool → Instr} (h : ∀ t, (mk t).wf = true) :
    GivesWf (rdSwToggle base mk) :=
  gives_after fun _ => gives_ite (fun _ => gives_pure (h false)) fun _ => gives_guard fun _ => h true

theorem givesWf_swErr (echo : Byte) {mk : Half → Byte → Instr}
    (h : ∀ u c, errCodeOk c = true → (mk u c).wf = true) :
    GivesWf (rdSwErr echo mk) :=
  gives_after fun w => gives_guard fun hw => h (upper w) (codeByte w) hw.2

theorem givesWf_swErrToggle (base : Byte) {mk : Half → Byte → Bool → Instr}
    (h : ∀ u c t, (errCodeOk c && notSteadyCode u c) = true → (mk u c t).wf = true) :
    GivesWf (rdSwErrToggle base mk) :=
  gives_after fun _ => gives_ite
    (fun hw => gives_ite (fun _ => gives_pure (h _ _ false hw)) fun _ => gives_guard fun _ => h _ _ true hw)
    fun _ => gives_fail _

theorem givesWf_swNomatch (echo : Byte) {mk : Word → Instr}
    (h : ∀ w, noClassOf echo w = true → (mk w).wf = true) :
    GivesWf (rdSwNomatch echo mk) :=
  gives_after fun w => gives_guard fun hw => h w hw

theorem gives_list : (n : Nat) → Gives (fun l => l.length = n) (rdList n)
  | 0 => gives_pure rfl
  | n + 1 => gives_after fun _ => gives_then (gives_list n) fun _ hl => gives_pure (congrArg (· + 1) hl)

/-- A name read has the length its 16-bit number gives. -/
theorem gives_name : Gives (fun s => nameLengthOk s = true) rdName :=
  gives_after fun _ => gives_ite
    (fun _ => gives_then (P := fun l : List Byte => l.length < 65536)
      (gives_after fun n => fun bs l rest hl => gives_list n.toNat bs l rest hl ▸ n.isLt)
      fun _ hl => gives_pure (decide_eq_true hl))
    fun _ => gives_pure rfl

theorem givesWf_bare : GivesWf rdBare := by
  refine gives_after fun w => ?_
  cases hw : decodeBare w with
  | none => exact gives_fail _
  | some i => exact gives_pure (rowOf_decodeBare w i hw).2

/-! ### The readers of the tags -/

/-- The reader of this tag, if there is one, gives well-formed operations. -/
def RowGivesWf : Option (Reader Instr) → Prop
  | some p => GivesWf p
  | none => True

theorem rowGivesWf_wordRow (tag : Byte) : RowGivesWf (rdWordRow tag) := by
  unfold rdWordRow
  split
  · exact gives_after fun _ => gives_after fun _ => gives_pure rfl
  · exact givesWf_cwFixed _ fun _ _ => rfl
  · exact givesWf_cwFixed _ fun _ _ => rfl
  · exact givesWf_cwToggle _ fun _ _ _ => rfl
  · exact givesWf_cwToggle _ fun _ _ _ => rfl
  · exact givesWf_cwToggle _ fun _ _ _ => rfl
  · exact givesWf_cwToggle _ fun _ _ _ => rfl
  · exact givesWf_swExact _ rfl
  · exact gives_pure rfl
  · exact givesWf_swErr _ fun _ _ hc => hc
  · exact givesWf_swNomatch _ fun _ hw => hw
  · exact givesWf_swExact _ rfl
  · exact gives_pure rfl
  · exact givesWf_swErr _ fun _ _ hc => hc
  · exact givesWf_swNomatch _ fun _ hw => hw
  · exact givesWf_swToggle _ fun _ => rfl
  · exact givesWf_swToggle _ fun _ => rfl
  · exact givesWf_swErrToggle _ fun _ _ _ hc => hc
  · exact gives_after fun _ => gives_pure rfl
  · exact givesWf_swToggle _ fun _ => rfl
  · exact givesWf_swToggle _ fun _ => rfl
  · exact givesWf_swErrToggle _ fun _ _ _ hc => hc
  · exact gives_after fun _ => gives_pure rfl
  · exact gives_after fun _ => gives_after fun _ => gives_guard fun _ => rfl
  · exact gives_after fun _ => gives_after fun _ => gives_guard fun _ => rfl
  · exact gives_after fun _ => gives_after fun _ => gives_pure rfl
  · exact gives_after fun _ => gives_after fun _ => gives_pure rfl
  · exact gives_after fun _ => gives_after fun _ => gives_after fun _ => gives_pure rfl
  · trivial

/-- Of the rows of the host only SET_NAME has a condition; the others give well-formed operations by their form. -/
theorem rowGivesWf_hostRow (tag : Byte) : RowGivesWf (rdHostRow tag) := by
  unfold rdHostRow
  split
  case h_3 => exact gives_then gives_name fun _ hs => gives_pure hs
  case h_19 => trivial
  all_goals
    show GivesWf _
    repeat refine gives_after fun _ => ?_
    exact gives_pure rfl

/-- No row of the engine has a condition. -/
theorem rowGivesWf_engineRow (tag : Byte) : RowGivesWf (rdEngineRow tag) := by
  unfold rdEngineRow
  split
  case h_30 => trivial
  all_goals
    show GivesWf _
    repeat refine gives_after fun _ => ?_
    exact gives_pure rfl

theorem givesWf_row (tag : Byte) : GivesWf (rdRow tag) := by
  unfold rdRow
  refine gives_ite (fun _ => givesWf_bare) fun _ => ?_
  have hword := rowGivesWf_wordRow tag
  have hhost := rowGivesWf_hostRow tag
  have hengine := rowGivesWf_engineRow tag
  cases hw : rdWordRow tag with
  | some p => rwa [hw] at hword
  | none =>
    cases hh : rdHostRow tag with
    | some p => rwa [hh] at hhost
    | none =>
      cases he : rdEngineRow tag with
      | some p => rwa [he] at hengine
      | none => exact gives_fail _

/-- Settles O2: tag by tag (`givesWf_row`). -/
theorem decodedOperationIsWellFormed : Obligations.DecodedOperationIsWellFormed := by
  intro bs rest i h
  cases bs with
  | nil => cases h
  | cons tag bs => exact givesWf_row tag bs i rest h

end Sys2Proof
end

section
/-! The step of the machine by the event at the front of the script (30_encoding R117), and the word rows performed
alone (30_encoding R102 to R112; log 11). -/

namespace Sys2Proof.Machine

section
variable {s : State}

/-! ### The event at the front of the script -/

theorem script_ne_nil {x : Event × List Byte} (h : decodeEvent s.script = .ok x) : s.script ≠ [] := by
  intro hnil
  rw [hnil] at h
  cases h

theorem step_of_operation {i : Instr} {rest : List Byte} (h : decodeEvent s.script = .ok (.instr i, rest)) :
    step s = exec i { s with script := rest } := by
  simp only [step, fetch, if_neg (script_ne_nil h), h, withScript]

theorem step_of_hostWrite {w : HostWrite} {rest : List Byte} (h : decodeEvent s.script = .ok (.host w, rest)) :
    step s = execHostWrite w { s with script := rest } := by
  simp only [step, fetch, if_neg (script_ne_nil h), h, withScript]

theorem step_of_hostRead {r : HostRead} {rest : List Byte} (h : decodeEvent s.script = .ok (.read r, rest)) :
    step s = execHostRead r { s with script := rest } := by
  simp only [step, fetch, if_neg (script_ne_nil h), h, withScript]

theorem step_of_noFrame {r : Reject} (hne : s.script ≠ []) (h : decodeEvent s.script = .error r) :
    step s = .refused (.badFrame r) := by
  simp only [step, fetch, if_neg hne, h]

theorem step_of_end (h : s.script = []) : step s = .next s := by
  simp only [step, fetch, if_pos h]

end

/-- Settles O5: an operation is the event its bytes decode to (`decodeEvent_of_decode`). -/
theorem stepRunsTheDecodedEvent : Obligations.StepRunsTheDecodedEvent := fun _ =>
  ⟨fun _ _ h => step_of_operation (decodeEvent_of_decode h), fun _ _ => step_of_hostWrite,
    fun _ _ => step_of_hostRead, fun _ => step_of_noFrame, step_of_end⟩

/-! ### The words of the engine as numbers (30_encoding R101, R109) -/

/-- A field above another, as a sum. -/
theorem shiftLeft_or_eq {a b k : Nat} (h : b < 2 ^ k) : a <<< k ||| b = a * 2 ^ k + b := by
  rw [← Nat.shiftLeft_add_eq_or_of_lt h, Nat.shiftLeft_eq]

/-- The three fields of a control word at their places: mode, phase, toggle. -/
theorem controlFields_eq {m k : Nat} (hk : k < 4) (t : Bool) :
    m <<< 8 ||| k <<< 1 ||| t.toNat = m * 256 + 2 * k + t.toNat := by
  have ht : t.toNat < 2 := Bool.toNat_lt t
  rw [Nat.or_assoc, shiftLeft_or_eq (k := 1) (by omega), shiftLeft_or_eq (k := 8) (by omega)]
  omega

theorem cwBits_eq_ofNat (m : BitVec 24) (phase : BitVec 2) (t : Bool) :
    cwBits m phase t = BitVec.ofNat 32 (m.toNat * 256 + 2 * phase.toNat + t.toNat) := by
  have hbit : (bit 1 t).toNat = t.toNat := by cases t <;> rfl
  apply BitVec.eq_of_toNat_eq
  rw [← controlFields_eq phase.isLt, BitVec.toNat_ofNat, Nat.mod_eq_of_lt]
  · simp only [cwBits, cwLow, BitVec.toNat_append, hbit]
    simp [Nat.or_assoc]
  · rw [controlFields_eq phase.isLt]
    have := Bool.toNat_lt t
    omega

theorem bwBits_eq_ofNat (n : BitVec 14) : bwBits n = BitVec.ofNat 32 (n.toNat * 262144 + 70) := by
  apply BitVec.eq_of_toNat_eq
  rw [bwBits, BitVec.append_assoc, BitVec.toNat_cast, BitVec.toNat_append, shiftLeft_or_eq (BitVec.isLt _)]
  simp
  omega

/-- The block size keeps the low 14 bits of the count (40_descriptor_codec R145). -/
theorem blockSize_eq_ofNat (n : Half) : blockSize n = BitVec.ofNat 32 (n.toNat % 16384 * 262144 + 70) := by
  apply BitVec.eq_of_toNat_eq
  rw [blockSize, shiftLeft_or_eq (by decide)]
  simp only [BitVec.toNat_ofNat]
  omega

/-! ### The control-word rows (30_encoding R102, R103) -/

section
variable {s : State}

theorem baseMode_of_write (h : s.dir = .write) : baseMode s = s.params.baseModeWrite := by simp [baseMode, h]
theorem baseMode_of_read (h : s.dir = .read) : baseMode s = s.params.baseModeRead := by simp [baseMode, h]

theorem controlWord_of_init (h : s.state = stInit) : controlWord s = some s.params.initControlWord := if_pos h

/-- In the phases that send one the control word is that of format CW (30_encoding R101, 43_step_sequencer R205). -/
theorem controlWord_of_phase {m : BitVec 24} {phase : BitVec 2} (hphase : phase.toNat < 3)
    (hstate : s.state.toNat = phase.toNat + 1) (hmode : m.toNat = baseMode s + phase.toNat) :
    controlWord s = some (cwBits m phase s.toggle) := by
  have hinit : s.state ≠ stInit := by simp only [stInit]; bv_omega
  have hsends : s.state = stSendCommand ∨ s.state = stCurveInfo ∨ s.state = stSetpoints := by
    simp only [stSendCommand, stCurveInfo, stSetpoints]; bv_omega
  simp only [controlWord, if_neg hinit, if_pos hsends, hstate, Nat.add_sub_cancel, ← hmode,
    controlFields_eq phase.isLt, cwBits_eq_ofNat]

/-- A control-word row whose word the registers call for writes it and arms the wait (43_step_sequencer R205). -/
theorem emitRow_of_controlWord {w : Word} (hw : controlWord s = some w) :
    emitRow true w true s = .next { s with
      log := s.log ++ [.write .controlWord w]
      waitingForStatus := true
      timeoutCtr := 0 } := by
  simp [emitRow, emitControl, hw, emit, armWait]

/-- The rows of R103, by state, direction, phase field and toggle. -/
theorem emitRow_of_phase {st : BitVec 3} {d : Dir} {m : BitVec 24} {phase : BitVec 2} {t : Bool} {n : Nat}
    (hst : s.state = st) (hd : s.dir = d) (ht : s.toggle = t) (hmode : m.toNat = baseMode s + phase.toNat)
    (hphase : phase.toNat < 3) (hstate : st.toNat = phase.toNat + 1)
    (hn : m.toNat * 256 + 2 * phase.toNat + t.toNat = n) :
    emitRow (inPhase st d s) (cwBits m phase t) true s = .next { s with
      log := s.log ++ [.write .controlWord (BitVec.ofNat 32 n)]
      waitingForStatus := true
      timeoutCtr := 0 } := by
  subst hst ht
  rw [inPhase, decide_eq_true ⟨rfl, hd⟩, emitRow_of_controlWord (controlWord_of_phase hphase hstate hmode),
    cwBits_eq_ofNat, hn]

end

/-- Settles O6: the row of Init, and the six rows of R103 (`emitRow_of_phase`). -/
theorem controlWordRowsEmitTheirWord : Obligations.ControlWordRowsEmitTheirWord := by
  intro s _
  refine ⟨fun hst => ?_, fun m hst hd ht hm => ?_, fun m hst hd ht hm => ?_, fun m t hst hd ht hm => ?_,
    fun m t hst hd ht hm => ?_, fun m t hst hd ht hm => ?_, fun m t hst hd ht hm => ?_⟩
  · show emitRow (decide (s.state = stInit)) s.params.initControlWord true s = _
    rw [decide_eq_true hst, emitRow_of_controlWord (controlWord_of_init hst)]
  · exact emitRow_of_phase hst hd ht (by rw [baseMode_of_write hd]; exact hm) (by decide) rfl (by simp)
  · exact emitRow_of_phase hst hd ht (by rw [baseMode_of_read hd]; exact hm) (by decide) rfl (by simp)
  · exact emitRow_of_phase hst hd ht (by rw [baseMode_of_write hd]; exact hm) (by decide) rfl rfl
  · exact emitRow_of_phase hst hd ht (by rw [baseMode_of_read hd]; exact hm) (by decide) rfl rfl
  · exact emitRow_of_phase hst hd ht (by rw [baseMode_of_write hd]; exact hm) (by decide) rfl rfl
  · exact emitRow_of_phase hst hd ht (by rw [baseMode_of_read hd]; exact hm) (by decide) rfl rfl

section
variable {s : State}

/-! ### The index, block-size and data-word rows (30_encoding R108 to R112) -/

theorem sizeWord_of_write (h : s.dir = .write) : sizeWord s = blockSize (rd16 s.desc 4) := by simp [sizeWord, h]

theorem cursorWord_of_desc (hsrc : s.txSrc = .fromDesc) (hpos : s.txPos.toNat < descWords) :
    cursorWord s = .ok (wordAt s.desc s.txPos.toNat) := by
  simp [cursorWord, hsrc, hpos]

theorem cursorWord_of_sp (hsrc : s.txSrc = .fromSp) (hpos : s.txPos.toNat < s.params.maxSetpoints) :
    cursorWord s = .ok (wordAt s.sp s.txPos.toNat) := by
  simp [cursorWord, hsrc, hpos]

/-- TX.NEXT of a write that succeeds (45_word_serializer R251). -/
theorem sendNext_true {w : Word} (hlen : s.txPos.toNat < s.txLen.toNat) (hw : cursorWord s = .ok w) :
    sendNext true s = .go { s with log := s.log ++ [.write .valueOut w], txPos := s.txPos + 1 } := by
  simp [sendNext, hlen, hw, emit]

/-- TX.NEXT of a write that fails abandons the step (43_step_sequencer R198). -/
theorem sendNext_false {w : Word} (hlen : s.txPos.toNat < s.txLen.toNat) (hw : cursorWord s = .ok w) :
    sendNext false s = .abandon s.log := by
  simp [sendNext, hlen, hw]

section
variable {st : BitVec 3} {src : TxSrc} {target : RxTarget} {w : Word}

/-- In a write session the row of the word under the cursor is TX.NEXT. -/
theorem dataWord_of_write (ok : Bool) (hd : s.dir = .write) (hst : s.state = st) (hsrc : s.txSrc = src)
    (hlen : s.txPos.toNat < s.txLen.toNat) (hw : cursorWord s = .ok w) :
    dataWord st src target w ok s = sendNext ok s := by
  simp [dataWord, hd, hst, cursorIs, hsrc, hlen, hw]

/-- In a read session the row of the active buffer is RX.PUSH. -/
theorem dataWord_of_read (ok : Bool) (hd : s.dir = .read) (ht : s.rxTarget = target) :
    dataWord st src target w ok s = receive w s := by
  simp [dataWord, hd, ht]

theorem settle_dataWord_of_write (hd : s.dir = .write) (hst : s.state = st) (hsrc : s.txSrc = src)
    (hlen : s.txPos.toNat < s.txLen.toNat) (hw : cursorWord s = .ok w) :
    settle s (dataWord st src target w true s) =
        .next { s with log := s.log ++ [.write .valueOut w], txPos := s.txPos + 1 } ∧
      settle s (dataWord st src target w false s) = .next s := by
  rw [dataWord_of_write true hd hst hsrc hlen hw, dataWord_of_write false hd hst hsrc hlen hw, sendNext_true hlen hw,
    sendNext_false hlen hw]
  exact ⟨rfl, rfl⟩

end

theorem execIw_of_curveId (hst : s.state = stSendCommand) (ok : Bool) :
    execIw s.curveId ok s = settle s (regWrite .indexOut ok (iwBits s.curveId) s) := by
  simp [execIw, hst]

theorem execBw_of_count {n : BitVec 14} (hst : s.state = stSendCommand) (hd : s.dir = .write)
    (hn : n.toNat = (rd16 s.desc 4).toNat % 16384) (ok : Bool) :
    execBw n ok s = settle s (regWrite .valueOut ok (bwBits n) s) := by
  have hword : bwBits n = sizeWord s := by rw [sizeWord_of_write hd, blockSize_eq_ofNat, bwBits_eq_ofNat, hn]
  simp [execBw, inPhase, hst, hd, hword]

end

/-- Settles O7: the rows of SendCommand are endpoint writes, the data rows TX.NEXT. -/
theorem outgoingWordRowsEmit : Obligations.OutgoingWordRowsEmit := by
  refine ⟨fun s hst => ⟨?_, ?_, fun n hd hn => ⟨?_, ?_⟩⟩, fun s hd hlen =>
    ⟨fun hst hsrc hpos => ?_, fun hst hsrc hpos => ?_⟩⟩
  · exact (execIw_of_curveId hst true).trans (by rw [iwBits_eq_ofNat]; rfl)
  · exact execIw_of_curveId hst false
  · exact (execBw_of_count hst hd hn true).trans (by rw [bwBits_eq_ofNat]; rfl)
  · exact execBw_of_count hst hd hn false
  · exact settle_dataWord_of_write hd hst hsrc hlen (cursorWord_of_desc hsrc hpos)
  · exact settle_dataWord_of_write hd hst hsrc hlen (cursorWord_of_sp hsrc hpos)

section
variable {s : State} {v : Word}

/-- RX.PUSH of a descriptor word for which there is room (45_word_serializer R255). -/
theorem receive_of_toDesc (hb : s.bufferResponse = true) (ht : s.rxTarget = .toDesc)
    (hroom : s.rxCount.toNat < s.rxCap.toNat) (hdesc : s.rxCount.toNat < descWords) :
    receive v s = .go { s with desc := storeWord s.desc s.rxCount.toNat v, rxCount := s.rxCount + 1 } := by
  simp [receive, storeReceived, hb, ht, Nat.not_le.2 hroom, hdesc]

/-- RX.PUSH of a setpoint word (45_word_serializer R257). -/
theorem receive_of_toPending (hb : s.bufferResponse = true) (ht : s.rxTarget = .toPending) :
    receive v s = .go { s with rxPending := v, rxPendingValid := true } := by
  simp [receive, storeReceived, hb, ht]

end

/-- Settles O8: the data rows are RX.PUSH. -/
theorem dataWordsAreReceived : Obligations.DataWordsAreReceived := by
  intro s v ok hwf hd hb
  refine ⟨fun ht hroom hdesc => ?_, fun ht => ?_⟩
  · refine ⟨{ s with desc := storeWord s.desc s.rxCount.toNat v, rxCount := s.rxCount + 1 }, ?_, rfl,
      wordAt_storeWord hwf, fun a ha => readByte_storeWord_outside hwf ha⟩
    show settle s (dataWord stCurveInfo .fromDesc .toDesc v ok s) = _
    rw [dataWord_of_read ok hd ht, receive_of_toDesc hb ht hroom hdesc, settle_go]
  · show settle s (dataWord stSetpoints .fromSp .toPending v ok s) = _
    rw [dataWord_of_read ok hd ht, receive_of_toPending hb ht, settle_go]

end Sys2Proof.Machine
end

section
/-! The record in a memory (30_encoding R110): bytes written from an address on read back, and split at the fields'
offsets into the fields. -/

namespace Sys2Proof.Machine

/-! ### Bytes at an address -/

/-- The memory holds these bytes from this address on. -/
def BytesAt (m : Memory) (a : Nat) (l : List Byte) : Prop := ∀ k (hk : k < l.length), readByte m (a + k) = l[k]

section
variable {m : Memory} {a : Nat}

theorem bytesAt_writeBytes {l : List Byte} (h : Memory.wf m = true) : BytesAt (writeBytes m a l) a l := by
  intro k hk
  rw [readByte_writeBytes h, if_pos (by omega), Nat.add_sub_cancel_left, List.getD_eq_getElem _ _ hk]

/-- Two strings one after the other, the second at the address `b` where the first ends. -/
theorem BytesAt.split {b : Nat} {l l' : List Byte} (h : BytesAt m a (l ++ l')) (hb : a + l.length = b) :
    BytesAt m a l ∧ BytesAt m b l' := by
  subst hb
  refine ⟨fun k hk => ?_, fun k hk => ?_⟩
  · rw [h k (by rw [List.length_append]; omega), List.getElem_append_left hk]
  · rw [Nat.add_assoc, h (l.length + k) (by rw [List.length_append]; omega), List.getElem_append_right (by omega)]
    simp only [Nat.add_sub_cancel_left]

theorem rd16_of_bytesAt {v : Half} (h : BytesAt m a (le16 v)) : rd16 m a = v := by
  have h0 : readByte m a = v.extractLsb' 0 8 := h 0 (by simp)
  have h1 : readByte m (a + 1) = v.extractLsb' 8 8 := h 1 (by simp)
  rw [rd16, h0, h1, join16_le16]

theorem rd32_of_bytesAt {w : Word} (h : BytesAt m a (le32 w)) : rd32 m a = w := by
  have h0 : readByte m a = w.extractLsb' 0 8 := h 0 (by simp)
  have h1 : readByte m (a + 1) = w.extractLsb' 8 8 := h 1 (by simp)
  have h2 : readByte m (a + 2) = w.extractLsb' 16 8 := h 2 (by simp)
  have h3 : readByte m (a + 3) = w.extractLsb' 24 8 := h 3 (by simp)
  rw [rd32, h0, h1, h2, h3, join32_le32]

/-- Words one after the other, four bytes each. -/
theorem rd32_of_bytesAt_words {ws : List Word} (h : BytesAt m a (ws.flatMap le32)) (j : Nat) (hj : j < ws.length) :
    rd32 m (a + 4 * j) = ws[j] := by
  induction ws generalizing a j with
  | nil => cases hj
  | cons w ws ih =>
    obtain ⟨hw, hws⟩ := BytesAt.split (b := a + 4) (by simpa only [List.flatMap_cons] using h) rfl
    cases j with
    | zero => exact rd32_of_bytesAt hw
    | succ j =>
      rw [List.getElem_cons_succ, ← ih hws j (Nat.lt_of_succ_lt_succ hj)]
      congr 1
      omega

/-! ### The record -/

/-- The bytes of a record at address 0 are its fields at their offsets (30_encoding R110). -/
theorem holdsRecord_of_bytesAt {f : Fields} (h : BytesAt m 0 f.bytes) : HoldsRecord m f := by
  simp only [Fields.bytes, List.append_assoc] at h
  obtain ⟨hdataOffset, h⟩ := h.split (b := 2) rfl
  obtain ⟨hobjectType, h⟩ := h.split (b := 4) rfl
  obtain ⟨hnumSetpoints, h⟩ := h.split (b := 6) rfl
  obtain ⟨hdataTypeSize, h⟩ := h.split (b := 8) rfl
  obtain ⟨hname, h⟩ := h.split (b := 30) (by simp)
  obtain ⟨hcurveId, h⟩ := h.split (b := 32) rfl
  obtain ⟨hxLength, h⟩ := h.split (b := 36) rfl
  obtain ⟨hxDimUuid, h⟩ := h.split (b := 38) rfl
  obtain ⟨hyDimUuid, h⟩ := h.split (b := 40) rfl
  obtain ⟨hwizardType, hwizardParams⟩ := h.split (b := 42) rfl
  exact {
    dataOffset := rd16_of_bytesAt hdataOffset
    objectType := rd16_of_bytesAt hobjectType
    numSetpoints := rd16_of_bytesAt hnumSetpoints
    dataTypeSize := rd16_of_bytesAt hdataTypeSize
    name := fun k => by rw [hname k.val (by simp)]; simp
    curveId := rd16_of_bytesAt hcurveId
    xLength := rd32_of_bytesAt hxLength
    xDimUuid := rd16_of_bytesAt hxDimUuid
    yDimUuid := rd16_of_bytesAt hyDimUuid
    wizardType := rd16_of_bytesAt hwizardType
    wizardParams := fun j => by rw [rd32_of_bytesAt_words hwizardParams j.val (by simp)]; simp }

theorem padding_of_bytesAt {f : Fields} {pad0 pad1 : Byte} (h : BytesAt m 0 (f.bytes ++ [pad0, pad1])) :
    readByte m 70 = pad0 ∧ readByte m 71 = pad1 := by
  obtain ⟨-, hpad⟩ := h.split (b := 70) (by rw [fields_bytes_length])
  exact ⟨hpad 0 (by simp), hpad 1 (by simp)⟩

/-- The 72 bytes of a record written to address 0: the fields, the padding, and the bytes behind it. -/
theorem writeBytes_record (h : Memory.wf m = true) (f : Fields) (pad0 pad1 : Byte) :
    HoldsRecord (writeBytes m 0 (f.bytes ++ [pad0, pad1])) f ∧
      readByte (writeBytes m 0 (f.bytes ++ [pad0, pad1])) 70 = pad0 ∧
      readByte (writeBytes m 0 (f.bytes ++ [pad0, pad1])) 71 = pad1 ∧
      ∀ a, 72 ≤ a → readByte (writeBytes m 0 (f.bytes ++ [pad0, pad1])) a = readByte m a := by
  have hbytes := bytesAt_writeBytes (a := 0) (l := f.bytes ++ [pad0, pad1]) h
  obtain ⟨h70, h71⟩ := padding_of_bytesAt hbytes
  refine ⟨holdsRecord_of_bytesAt (hbytes.split rfl).1, h70, h71, fun a ha => ?_⟩
  refine readByte_writeBytes_outside h fun hin => ?_
  rw [List.length_append, fields_bytes_length, List.length_cons, List.length_singleton] at hin
  omega

end

theorem execRecord_of_notBusy {s : State} (h : s.xferState ≠ .busy) (f : Fields) (pad0 pad1 : Byte) :
    execRecord f pad0 pad1 s = .next { s with desc := writeBytes s.desc 0 (f.bytes ++ [pad0, pad1]) } := by
  rw [execRecord, if_pos (by rw [hostOpen, decide_eq_true h])]

theorem execRecord_of_busy {s : State} (h : s.xferState = .busy) (f : Fields) (pad0 pad1 : Byte) :
    execRecord f pad0 pad1 s = .next s := by
  rw [execRecord, if_neg (by simp [hostOpen, h])]

/-- Settles O15: the record written (`writeBytes_record`), or the port closed. -/
theorem recordReplacesDesc : Obligations.RecordReplacesDesc := by
  intro s f pad0 pad1 hwf
  refine ⟨fun hopen => ?_, fun hbusy => execRecord_of_busy hbusy f pad0 pad1⟩
  have hexec := execRecord_of_notBusy hopen f pad0 pad1
  have hrecord := writeBytes_record hwf f pad0 pad1
  generalize writeBytes s.desc 0 (f.bytes ++ [pad0, pad1]) = desc at hexec hrecord
  exact ⟨{ s with desc }, hexec, rfl, hrecord⟩

end Sys2Proof.Machine
end

section
/-! The descriptor codec (40_descriptor_codec R141 to R147): the bytes of a record are its fields and its fields are
the bytes, so PACK and UNPACK undo each other. -/

namespace Sys2Proof.Machine

/-! ### The bytes of a joined value (40_descriptor_codec R140) -/

/-- A byte above the lowest, in the string of bytes above it. -/
theorem extractByte_append {w : Nat} (hi : BitVec w) (lo : Byte) (k : Nat) :
    (hi ++ lo).extractLsb' (k + 8) 8 = hi.extractLsb' k 8 := by
  rw [BitVec.extractLsb'_append_eq_of_le (Nat.le_add_left 8 k), Nat.add_sub_cancel]

theorem le16_join16 (b0 b1 : Byte) : le16 (join16 b0 b1) = [b0, b1] := by
  have h0 : (join16 b0 b1).extractLsb' 0 8 = b0 := BitVec.extractLsb'_append_eq_right
  have h1 : (join16 b0 b1).extractLsb' 8 8 = b1 := BitVec.extractLsb'_append_eq_left
  rw [le16, h0, h1]

theorem le32_join32 (b0 b1 b2 b3 : Byte) : le32 (join32 b0 b1 b2 b3) = [b0, b1, b2, b3] := by
  have h0 : (join32 b0 b1 b2 b3).extractLsb' 0 8 = b0 := BitVec.extractLsb'_append_eq_right
  have h1 : (join32 b0 b1 b2 b3).extractLsb' 8 8 = b1 :=
    (extractByte_append (b3 ++ b2 ++ b1) b0 0).trans BitVec.extractLsb'_append_eq_right
  have h2 : (join32 b0 b1 b2 b3).extractLsb' 16 8 = b2 :=
    (extractByte_append (b3 ++ b2 ++ b1) b0 8).trans <|
      (extractByte_append (b3 ++ b2) b1 0).trans BitVec.extractLsb'_append_eq_right
  have h3 : (join32 b0 b1 b2 b3).extractLsb' 24 8 = b3 :=
    (extractByte_append (b3 ++ b2 ++ b1) b0 16).trans <|
      (extractByte_append (b3 ++ b2) b1 8).trans BitVec.extractLsb'_append_eq_left
  rw [le32, h0, h1, h2, h3]

/-! ### From the fields to the bytes -/

section
variable {m n : Memory} {a : Nat}

theorem bytesAt_nil : BytesAt m a [] := fun _ hk => nomatch hk

theorem bytesAt_cons {b : Byte} {l : List Byte} (hb : readByte m a = b) (hl : BytesAt m (a + 1) l) :
    BytesAt m a (b :: l)
  | 0, _ => hb
  | k + 1, hk => by
    rw [List.getElem_cons_succ, ← hl k (Nat.lt_of_succ_lt_succ hk)]
    congr 1
    omega

/-- Two strings one after the other, the second at the address `b` where the first ends. -/
theorem BytesAt.append {b : Nat} {l l' : List Byte} (h : BytesAt m a l) (h' : BytesAt m b l') (hb : a + l.length = b) :
    BytesAt m a (l ++ l') := by
  induction l generalizing a with
  | nil =>
    obtain rfl : a = b := hb
    exact h'
  | cons c l ih =>
    obtain ⟨hc, hl⟩ := h.split (l := [c]) rfl
    exact bytesAt_cons (hc 0 (by simp)) (ih hl (by rw [List.length_cons] at hb; omega))

theorem bytesAt_of_rd16 {v : Half} (h : rd16 m a = v) : BytesAt m a (le16 v) := by
  rw [← h, rd16, le16_join16]
  exact bytesAt_cons rfl (bytesAt_cons rfl bytesAt_nil)

theorem bytesAt_of_rd32 {w : Word} (h : rd32 m a = w) : BytesAt m a (le32 w) := by
  rw [← h, rd32, le32_join32]
  exact bytesAt_cons rfl (bytesAt_cons rfl (bytesAt_cons rfl (bytesAt_cons rfl bytesAt_nil)))

theorem bytesAt_of_rd32_words {ws : List Word} (h : ∀ j (hj : j < ws.length), rd32 m (a + 4 * j) = ws[j]) :
    BytesAt m a (ws.flatMap le32) := by
  induction ws generalizing a with
  | nil => exact bytesAt_nil
  | cons w ws ih =>
    rw [List.flatMap_cons]
    refine (bytesAt_of_rd32 (h 0 (by simp))).append (ih fun j hj => ?_) rfl
    have hword := h (j + 1) (Nat.succ_lt_succ hj)
    rw [List.getElem_cons_succ] at hword
    rw [← hword, le32_length]
    congr 1
    omega

theorem bytesAt_of_holdsRecord {f : Fields} (h : HoldsRecord m f) : BytesAt m 0 f.bytes := by
  have hname : BytesAt m 8 f.name.toList := fun k hk => by
    simpa using h.name ⟨k, by simpa using hk⟩
  have hparams : BytesAt m 42 (f.wizardParams.toList.flatMap le32) :=
    bytesAt_of_rd32_words fun j hj => by simpa using h.wizardParams ⟨j, by simpa using hj⟩
  have hhead := (bytesAt_of_rd16 h.dataOffset).append (bytesAt_of_rd16 h.objectType) rfl
  have hhead := hhead.append (bytesAt_of_rd16 h.numSetpoints) rfl
  have hhead := hhead.append (bytesAt_of_rd16 h.dataTypeSize) rfl
  have hhead := hhead.append hname rfl
  have hhead := hhead.append (bytesAt_of_rd16 h.curveId) (by simp)
  have hhead := hhead.append (bytesAt_of_rd32 h.xLength) (by simp)
  have hhead := hhead.append (bytesAt_of_rd16 h.xDimUuid) (by simp)
  have hhead := hhead.append (bytesAt_of_rd16 h.yDimUuid) (by simp)
  have hhead := hhead.append (bytesAt_of_rd16 h.wizardType) (by simp)
  exact hhead.append hparams (by simp)

/-- Two memories that hold the same record agree on its 70 bytes. -/
theorem readByte_eq_of_holdsRecord {f : Fields} (hm : HoldsRecord m f) (hn : HoldsRecord n f) (ha : a < 70) :
    readByte n a = readByte m a := by
  have hlen : a < f.bytes.length := by rw [fields_bytes_length]; exact ha
  have hna := bytesAt_of_holdsRecord hn a hlen
  have hma := bytesAt_of_holdsRecord hm a hlen
  rw [Nat.zero_add] at hna hma
  rw [hna, hma]

/-! ### UNPACK as the record held -/

theorem holdsRecord_unpacked (m : Memory) : HoldsRecord m (unpacked m) := by
  refine ⟨rfl, rfl, rfl, rfl, fun k => ?_, rfl, rfl, rfl, rfl, rfl, fun j => ?_⟩
  · rw [unpacked, Vector.getElem_ofFn]
  · rw [unpacked, Vector.getElem_ofFn]

/-- A memory holds one record only. -/
theorem unpacked_of_holdsRecord {f : Fields} (h : HoldsRecord m f) : unpacked m = f := by
  obtain ⟨dataOffset, objectType, numSetpoints, dataTypeSize, name, curveId, xLength, xDimUuid, yDimUuid, wizardType,
    wizardParams⟩ := f
  have hname : (Vector.ofFn fun k : Fin 22 => readByte m (8 + k.val)) = name :=
    Vector.ext fun k hk => by simpa using h.name ⟨k, hk⟩
  have hparams : (Vector.ofFn fun j : Fin 7 => rd32 m (42 + 4 * j.val)) = wizardParams :=
    Vector.ext fun j hj => by simpa using h.wizardParams ⟨j, hj⟩
  rw [unpacked, h.dataOffset, h.objectType, h.numSetpoints, h.dataTypeSize, hname, h.curveId, h.xLength, h.xDimUuid,
    h.yDimUuid, h.wizardType, hparams]

end

/-- Settles O17: a packed memory holds the record packed (`writeBytes_record`), every memory holds the record unpacked
from it, and a record fixes both the fields and the 70 bytes. -/
theorem codecLaws : Obligations.CodecLaws := by
  intro m n f hwf
  obtain ⟨hpack, -, -, -⟩ := writeBytes_record hwf f 0 0
  obtain ⟨hrepack, h70, h71, -⟩ := writeBytes_record hwf (unpacked m) 0 0
  have hm := holdsRecord_unpacked m
  refine ⟨unpacked_of_holdsRecord hpack, fun a ha => readByte_eq_of_holdsRecord hm hrepack ha, h70, h71,
    fun heq a ha => ?_⟩
  exact readByte_eq_of_holdsRecord hm (heq ▸ holdsRecord_unpacked n) ha

/-- Settles O14: the record written (`writeBytes_record`), its padding 0. -/
theorem packWritesTheRecord : Obligations.PackWritesTheRecord := fun s f hwf =>
  ⟨packDesc f s, rfl, rfl, writeBytes_record hwf f 0 0⟩

end Sys2Proof.Machine
end

section
/-! What the host is answered without effect on a register (40_descriptor_codec R142, R146; 42_requests R186;
60_exceptions R325), and the two rows that compute: SET_NAME (R144) and BLOCKSIZE (R145). -/

namespace Sys2Proof.Machine

/-! ### The host's port, and SET_NAME (42_requests R188, 40_descriptor_codec R144) -/

section
variable {s : State} {b : List Byte}

theorem hostOpen_of_notBusy (h : s.xferState ≠ .busy) : hostOpen s = true := decide_eq_true h

theorem hostOpen_of_busy (h : s.xferState = .busy) : ¬ hostOpen s = true := by simp [hostOpen, h]

theorem nameField_getElem (b : List Byte) (k : Fin 22) :
    (nameField b)[k.val] = if h : k.val < b.length then b[k.val] else 0 := by
  rw [nameField, Vector.getElem_ofFn]
  split
  next h => exact List.getD_eq_getElem b 0 h
  next h => exact List.getD_eq_default b 0 (Nat.le_of_not_lt h)

theorem execSetName_of_tooLong (h : 22 ≤ b.length) :
    execSetName (some b) s = .next { s with answer := .name false } := if_pos h

theorem execSetName_of_fits (h : b.length < 22) :
    execSetName (some b) s = .next (answering (.name true)
      (if hostOpen s then { s with host := { s.host with name := nameField b } } else s)) :=
  if_neg (Nat.not_le_of_lt h)

theorem execSetName_of_busy (b : List Byte) (h : s.xferState = .busy) :
    ∃ a, execSetName (some b) s = .next { s with answer := .name a } := by
  by_cases hlen : b.length < 22
  · exact ⟨true, by rw [execSetName_of_fits hlen, if_neg (hostOpen_of_busy h)]; rfl⟩
  · exact ⟨false, execSetName_of_tooLong (Nat.le_of_not_lt hlen)⟩

end

/-- Settles O18: the four cases of SET_NAME; the name it makes is `nameField`. -/
theorem setNameIsTheRule : Obligations.SetNameIsTheRule := by
  intro s b
  refine ⟨rfl, execSetName_of_tooLong, fun hfits hopen => ⟨nameField b, nameField_getElem b, ?_⟩,
    execSetName_of_busy b⟩
  show execSetName (some b) s = _
  rw [execSetName_of_fits hfits, if_pos (hostOpen_of_notBusy hopen)]
  rfl

/-! ### BLOCKSIZE (40_descriptor_codec R145) -/

/-- Settles O19: the shift as a product, and the sum of the fields (`blockSize_eq_ofNat`). -/
theorem blockSizeIsTheRule : Obligations.BlockSizeIsTheRule := by
  intro s n
  refine ⟨blockSize n, rfl, ?_, ?_⟩
  · rw [blockSize, BitVec.toNat_ofNat, Nat.shiftLeft_eq]
  · rw [blockSize_eq_ofNat, BitVec.toNat_ofNat]
    omega

/-! ### The views (40_descriptor_codec R142, R146; 60_exceptions R325) -/

theorem readBytes_length (m : Memory) (a n : Nat) : (readBytes m a n).length = n := by
  induction n generalizing a with
  | zero => rfl
  | succ n ih => rw [readBytes, List.length_cons, ih]

theorem readBytes_getElem? {m : Memory} {a n k : Nat} (hk : k < n) :
    (readBytes m a n)[k]? = some (readByte m (a + k)) := by
  induction n generalizing a k with
  | zero => cases hk
  | succ n ih =>
    cases k with
    | zero => rfl
    | succ k =>
      rw [readBytes, List.getElem?_cons_succ, ih (Nat.lt_of_succ_lt_succ hk)]
      congr 2
      omega

/-- Settles O16: UNPACK and DUMP answer the record held (`holdsRecord_unpacked`) and its bytes; every other view answers
the registers as they stand. -/
theorem hostViewsAnswerWithoutEffect : Obligations.HostViewsAnswerWithoutEffect := by
  refine ⟨fun s => ?_, fun _ => rfl, fun s k i => ⟨rfl, fun hin => if_pos hin, fun hout => ?_, rfl⟩⟩
  · refine ⟨unpacked s.desc, holdsRecord_unpacked s.desc, rfl, readBytes s.desc 0 descBytes, readBytes_length _ _ _,
      fun k hk => ?_, rfl⟩
    exact (readBytes_getElem? hk).trans (by rw [Nat.zero_add])
  · exact if_neg (Nat.not_lt_of_le hout)

end Sys2Proof.Machine
end

section
/-! The unit conversions at the host boundary (41_unit_conversions): the branches of XLEN.ENCODE (R162, U9) and of
POS.ENCODE (R165, U10), and the points PROJECT publishes (R168). -/

namespace Sys2Proof.Machine

/-! ### XLEN.ENCODE and XLEN.DECODE (41_unit_conversions R161 to R163, 93_implementation_defined U9) -/

section
variable {s : State} {n : BitVec 64} {dt total : Real64}

theorem durationInvalid_iff :
    durationInvalid total = true ↔ fLe total (fOfNat 0) = true ∨ fLe lmMaxCurveTime total = true := by
  rw [durationInvalid, Bool.or_eq_true]

theorem durationInvalid_eq_false_iff :
    durationInvalid total = false ↔ fLe total (fOfNat 0) = false ∧ fLe lmMaxCurveTime total = false := by
  rw [durationInvalid, Bool.or_eq_false_iff]

theorem execXlenEncode_of_notFinite (hdt : fFinite dt = false) : execXlenEncode n dt s = .refused .xlenDomain :=
  if_neg (Bool.eq_false_iff.1 hdt)

theorem execXlenEncode_of_invalid (hdt : fFinite dt = true) (hinvalid : durationInvalid (totalSeconds n dt) = true) :
    execXlenEncode n dt s = .next (answering (.xlen none) s) :=
  (if_pos hdt).trans (if_pos hinvalid)

/-- A valid duration is answered by its number of ticks where that number is a `u32`, and is refused elsewhere (U9). -/
theorem execXlenEncode_of_valid (hdt : fFinite dt = true) (hvalid : durationInvalid (totalSeconds n dt) = false) :
    execXlenEncode n dt s =
      if fFloor (fMul (totalSeconds n dt) xLengthScale) < 2 ^ 32 then
        .next (answering (.xlen (some (BitVec.ofInt 32 (fFloor (fMul (totalSeconds n dt) xLengthScale))))) s)
      else .refused .xlenDomain :=
  (if_pos hdt).trans (if_neg (Bool.eq_false_iff.1 hvalid))

end

section
variable {x : Word} {n : Half}

theorem decodedDt_of_zero (h : x = 0 ∨ n = 0) : decodedDt x n = fOfNat 0 := by
  refine if_neg fun ⟨hx, hn⟩ => ?_
  obtain rfl | rfl := h
  · exact Nat.lt_irrefl 0 hx
  · exact Nat.lt_irrefl 0 hn

theorem decodedDt_of_ne_zero (hx : x ≠ 0) (hn : n ≠ 0) :
    decodedDt x n = fDiv (fOfNat x.toNat) (fMul (fOfNat n.toNat) xLengthScale) :=
  if_pos ⟨BitVec.toNat_pos_of_ne_zero hx, BitVec.toNat_pos_of_ne_zero hn⟩

end

/-- Settles O20: a decoded spacing is 0.0 exactly where the guard of R163 fails; an encoded duration takes the branches
of R162 in order, with the refusals of U9 at both ends. -/
theorem durationConversionsAsTheRules : Obligations.DurationConversionsAsTheRules := by
  refine ⟨fun s x w n => ⟨fun hzero => ?_, fun hx hn => ?_, rfl⟩,
    fun s n dt hdt => ⟨fun hinvalid => ?_, fun hpos hmax hbelow => ?_⟩, fun s n dt hout => ?_⟩
  · show execXlenDecode x n s = _
    rw [execXlenDecode, decodedDt_of_zero hzero]
    rfl
  · show execXlenDecode x n s = _
    rw [execXlenDecode, decodedDt_of_ne_zero hx hn]
    rfl
  · exact execXlenEncode_of_invalid hdt (durationInvalid_iff.2 hinvalid)
  · exact (execXlenEncode_of_valid hdt (durationInvalid_eq_false_iff.2 ⟨hpos, hmax⟩)).trans (if_pos hbelow)
  · cases hdt : fFinite dt with
    | false => exact execXlenEncode_of_notFinite hdt
    | true =>
      obtain hnot | ⟨hpos, hmax, habove⟩ := hout
      · exact nomatch hdt.symm.trans hnot
      · exact (execXlenEncode_of_valid hdt (durationInvalid_eq_false_iff.2 ⟨hpos, hmax⟩)).trans
          (if_neg (Int.not_lt.2 habove))

/-! ### POS.ENCODE (41_unit_conversions R165, 42_requests R188, 93_implementation_defined U10) -/

/-- The ticks a word of SP holds: the signed 32-bit numbers (00_scope R10). -/
def TickInRange (tick : Int) : Prop := -(2 ^ 31) ≤ tick ∧ tick < 2 ^ 31

theorem toInt_ofInt_of_tickInRange {tick : Int} (h : TickInRange tick) : (BitVec.ofInt 32 tick).toInt = tick :=
  BitVec.toInt_ofInt_eq_self (by decide) h.1 h.2

section
variable {s : State} {i : Half} {p : Real64} {k : Nat} {w : Word}

theorem hostSetpoint_of_busy (h : s.xferState = .busy) : hostSetpoint k w s = .next s := if_neg (hostOpen_of_busy h)

theorem hostSetpoint_of_notBusy (h : s.xferState ≠ .busy) (hk : k < s.params.maxSetpoints) :
    hostSetpoint k w s = .next { s with sp := storeWord s.sp k w } :=
  (if_pos (hostOpen_of_notBusy h)).trans (if_pos hk)

theorem execPosEncode_of_tick (hp : fFinite p = true) (hscaled : fFinite (fMul p positionScale) = true)
    (htick : TickInRange (posRound s.params (fMul p positionScale))) :
    execPosEncode i p s =
      hostSetpoint i.toNat (BitVec.ofInt 32 (posRound s.params (fMul p positionScale))) s :=
  (if_pos (Bool.and_eq_true_iff.2 ⟨hp, hscaled⟩)).trans (if_pos htick)

theorem execPosEncode_of_notFinite (h : fFinite p = false ∨ fFinite (fMul p positionScale) = false) :
    execPosEncode i p s = .refused .posDomain :=
  if_neg (Bool.eq_false_iff.1 (Bool.and_eq_false_iff.2 h))

theorem execPosEncode_of_noTick (h : ¬ TickInRange (posRound s.params (fMul p positionScale))) :
    execPosEncode i p s = .refused .posDomain := by
  by_cases hfinite : fFinite p = true ∧ fFinite (fMul p positionScale) = true
  · exact (if_pos (Bool.and_eq_true_iff.2 hfinite)).trans (if_neg h)
  · exact if_neg (mt Bool.and_eq_true_iff.1 hfinite)

end

/-- Settles O21: inside the domain of U10, POS.ENCODE is the host's write of the tick into SP, whose word reads back as
the tick (`toInt_ofInt_of_tickInRange`); outside it is refused. -/
theorem positionEncodesAsTheRule : Obligations.PositionEncodesAsTheRule := by
  refine ⟨fun s i p hwf hp hscaled hlow hhigh => ?_, fun s i p hout => ?_⟩
  · have hencode : exec (.posEncode i p) s = _ := execPosEncode_of_tick hp hscaled ⟨hlow, hhigh⟩
    refine ⟨fun hopen hi => ⟨_, hencode.trans (hostSetpoint_of_notBusy hopen hi), rfl, ?_,
      fun a ha => readByte_storeWord_outside hwf ha⟩, fun hbusy => hencode.trans (hostSetpoint_of_busy hbusy)⟩
    rw [wordAt_storeWord hwf, toInt_ofInt_of_tickInRange ⟨hlow, hhigh⟩]
  · obtain hnot | hnot | hlow | hhigh := hout
    · exact execPosEncode_of_notFinite (.inl hnot)
    · exact execPosEncode_of_notFinite (.inr hnot)
    · exact execPosEncode_of_noTick fun h => Int.not_lt.2 h.1 hlow
    · exact execPosEncode_of_noTick fun h => Int.not_lt.2 hhigh h.2

/-! ### PROJECT (41_unit_conversions R168) -/

/-- The quotient that stands for 0.5 in the model is the binary64 of 0.5. -/
theorem fHalf_eq : fHalf = 0x3FE0000000000000 := by decide

theorem projectOffset_eq (a : ProjectArgs) :
    projectOffset a = if a.lookupOk = true then a.offset.getD (fOfNat 0) else 0x3FE0000000000000 := by
  rw [projectOffset, fHalf_eq]

theorem completedRead_iff {s : State} :
    completedRead s = true ↔ s.xferState = .done ∧ s.result = .success ∧ s.dir = .read := decide_eq_true_iff

theorem receivedPositions_length (s : State) : (receivedPositions s).length = s.spCount.toNat := by
  rw [receivedPositions, List.length_map, List.length_range]

theorem receivedPositions_getElem? {s : State} {k : Nat} (hk : k < s.spCount.toNat) :
    (receivedPositions s)[k]? = some (decodedPosition (wordAt s.sp k)) := by
  rw [receivedPositions, List.getElem?_map, List.getElem?_range hk, Option.map_some]

/-- The published points: the projection of each received position, up to the maximum point count (R168). -/
def projectedPoints (a : ProjectArgs) (s : State) : List Real64 :=
  ((receivedPositions s).take s.params.maxPoints).map
    (Config.projectPoint (projectResolution a) (projectOffset a) (decide (a.direction ≠ 0)))

theorem execProject_of_completedRead {s : State} (a : ProjectArgs) (h : completedRead s = true)
    (hcount : s.spCount.toNat ≤ s.params.maxSetpoints) :
    execProject a s = .next { s with profile := projectedPoints a s, profileCount := (projectedPoints a s).length } :=
  (if_pos h).trans (if_neg (Nat.not_lt_of_le hcount))

theorem projectedPoints_length (a : ProjectArgs) (s : State) :
    (projectedPoints a s).length = min s.params.maxPoints s.spCount.toNat := by
  rw [projectedPoints, List.length_map, List.length_take, receivedPositions_length]

theorem projectedPoints_getElem? {s : State} (a : ProjectArgs) {k : Nat} (hk : k < (projectedPoints a s).length) :
    (projectedPoints a s)[k]? = some (Config.projectPoint (projectResolution a) (projectOffset a)
      (decide (a.direction ≠ 0)) (decodedPosition (wordAt s.sp k))) := by
  rw [projectedPoints_length] at hk
  obtain ⟨hmax, hcount⟩ := Nat.lt_min.1 hk
  rw [projectedPoints, List.getElem?_map, List.getElem?_take_of_lt hmax, receivedPositions_getElem? hcount,
    Option.map_some]

/-- Settles O22: PROJECT publishes `projectedPoints`, whose length and points are those of the statement. -/
theorem projectPublishesTruncatedPoints : Obligations.ProjectPublishesTruncatedPoints := by
  intro s a hdone hsuccess hread hcount
  have hcompleted : completedRead s = true := completedRead_iff.2 ⟨hdone, hsuccess, hread⟩
  refine ⟨_, execProject_of_completedRead a hcompleted hcount, rfl, projectedPoints_length a s, rfl, fun k hk => ?_⟩
  rw [← projectOffset_eq]
  exact projectedPoints_getElem? a hk

end Sys2Proof.Machine
end

section
/-! The host's requests and writes (42_requests R176 to R183, R188): which check answers a request, what an accepted
one and a rejected one leave, and the host's write port in both transfer states. -/

namespace Sys2Proof.Machine

/-- Settles O23: `startSession` writes the registers of R178. -/
theorem sessionInitIsTheRule : Obligations.SessionInitIsTheRule := fun _ => rfl

/-! ### The check that fails first (42_requests R183) -/

/-- The id of a request, which both kinds carry. -/
def requestId : Request → Half
  | .write id _ _ => id
  | .read id => id

/-- The id of the request lies outside 1 .. MAX_CURVE_ID (42_requests R180). -/
def IdInvalid (r : Request) (s : State) : Prop :=
  (requestId r).toNat < 1 ∨ s.params.maxCurveId < (requestId r).toNat

section
variable {s : State} {r : Request} {id count : Half} {xlenOk : Bool}

theorem idInvalid_iff : IdInvalid r s ↔ requestId r = 0 ∨ s.params.maxCurveId < (requestId r).toNat :=
  or_congr_left (Nat.lt_one_iff.trans (BitVec.toNat_inj (y := 0)))

theorem not_idInvalid_iff : ¬ IdInvalid r s ↔ requestId r ≠ 0 ∧ (requestId r).toNat ≤ s.params.maxCurveId := by
  rw [idInvalid_iff, not_or, Nat.not_lt]

theorem checkRequest_busy_iff : checkRequest r s = .busy ↔ s.xferState = .busy := by
  cases r
  all_goals
    simp only [checkRequest]
    split_ifs with hbusy
    · exact iff_of_true rfl hbusy
    all_goals exact iff_of_false nofun hbusy

theorem checkRequest_invalidId_iff : checkRequest r s = .invalidId ↔ s.xferState ≠ .busy ∧ IdInvalid r s := by
  cases r
  all_goals
    simp only [checkRequest]
    split_ifs with hbusy hid
    · exact iff_of_false nofun fun ⟨hopen, _⟩ => hopen hbusy
    · exact iff_of_true rfl ⟨hbusy, hid⟩
    all_goals exact iff_of_false nofun fun ⟨_, hinvalid⟩ => hid hinvalid

theorem checkRequest_write_invalidDuration_iff : checkRequest (.write id count xlenOk) s = .invalidDuration ↔
    s.xferState ≠ .busy ∧ ¬ IdInvalid (.write id count xlenOk) s ∧ (count = 0 ∨ xlenOk = false) := by
  simp only [checkRequest]
  split_ifs with hbusy hid hdur
  · exact iff_of_false nofun fun ⟨hopen, _⟩ => hopen hbusy
  · exact iff_of_false nofun fun ⟨_, hvalid, _⟩ => hvalid hid
  · exact iff_of_true rfl ⟨hbusy, hid, hdur⟩
  all_goals exact iff_of_false nofun fun ⟨_, _, hinvalid⟩ => hdur hinvalid

theorem checkRequest_write_invalidCount_iff : checkRequest (.write id count xlenOk) s = .invalidCount ↔
    s.xferState ≠ .busy ∧ ¬ IdInvalid (.write id count xlenOk) s ∧ (count ≠ 0 ∧ xlenOk = true) ∧
      s.params.maxSetpoints < count.toNat := by
  simp only [checkRequest]
  split_ifs with hbusy hid hdur hcount
  · exact iff_of_false nofun fun ⟨hopen, _⟩ => hopen hbusy
  · exact iff_of_false nofun fun ⟨_, hvalid, _⟩ => hvalid hid
  · exact iff_of_false nofun fun ⟨_, _, ⟨hne, hok⟩, _⟩ => hdur.elim hne (by simp [hok])
  · rw [not_or, Bool.not_eq_false] at hdur
    exact iff_of_true rfl ⟨hbusy, hid, hdur, hcount⟩
  · exact iff_of_false nofun fun ⟨_, _, _, hinvalid⟩ => hcount hinvalid

theorem checkRequest_read_accepted_iff :
    checkRequest (.read id) s = .accepted ↔ s.xferState ≠ .busy ∧ ¬ IdInvalid (.read id) s := by
  simp only [checkRequest]
  split_ifs with hbusy hid
  · exact iff_of_false nofun fun ⟨hopen, _⟩ => hopen hbusy
  · exact iff_of_false nofun fun ⟨_, hvalid⟩ => hvalid hid
  · exact iff_of_true rfl ⟨hbusy, hid⟩

/-- A read request has no duration and no count to fail by. -/
theorem checkRequest_read_ne :
    checkRequest (.read id) s ≠ .invalidDuration ∧ checkRequest (.read id) s ≠ .invalidCount := by
  simp only [checkRequest]
  split_ifs <;> exact ⟨nofun, nofun⟩

/-! A request does not fail first by a reason where an earlier check fails or this one passes. -/

theorem checkRequest_ne_invalidId
    (h : s.xferState = .busy ∨ requestId r ≠ 0 ∧ (requestId r).toNat ≤ s.params.maxCurveId) :
    checkRequest r s ≠ .invalidId := by
  rw [Ne, checkRequest_invalidId_iff]
  rintro ⟨hopen, hid⟩
  exact h.elim hopen fun hvalid => not_idInvalid_iff.2 hvalid hid

theorem checkRequest_write_ne_invalidDuration
    (h : s.xferState = .busy ∨ id = 0 ∨ s.params.maxCurveId < id.toNat ∨ (count ≠ 0 ∧ xlenOk = true)) :
    checkRequest (.write id count xlenOk) s ≠ .invalidDuration := by
  rw [Ne, checkRequest_write_invalidDuration_iff, not_idInvalid_iff]
  rintro ⟨hopen, ⟨hid, hmax⟩, hdur⟩
  obtain hbusy | hzero | hout | ⟨hcount, hok⟩ := h
  · exact hopen hbusy
  · exact hid hzero
  · exact Nat.not_lt.2 hmax hout
  · exact hdur.elim hcount (by simp [hok])

theorem checkRequest_write_ne_invalidCount
    (h : s.xferState = .busy ∨ id = 0 ∨ s.params.maxCurveId < id.toNat ∨ count = 0 ∨ xlenOk = false ∨
      count.toNat ≤ s.params.maxSetpoints) :
    checkRequest (.write id count xlenOk) s ≠ .invalidCount := by
  rw [Ne, checkRequest_write_invalidCount_iff, not_idInvalid_iff]
  rintro ⟨hopen, ⟨hid, hmax⟩, ⟨hcount, hok⟩, hover⟩
  obtain hbusy | hzero | hout | hnone | hbad | hfits := h
  · exact hopen hbusy
  · exact hid hzero
  · exact Nat.not_lt.2 hmax hout
  · exact hcount hnone
  · exact nomatch hok.symm.trans hbad
  · exact Nat.not_lt.2 hfits hover

/-! ### What a request leaves -/

theorem execReqWrite_of_accepted (h : checkRequest (.write id count xlenOk) s = .accepted) :
    execReqWrite id count xlenOk s = .next (answerRequest .accepted (startSession (loadWrite id count s))) := by
  rw [execReqWrite, h, if_pos rfl]

theorem execReqRead_of_accepted (h : checkRequest (.read id) s = .accepted) :
    execReqRead id s = .next (answerRequest .accepted (startSession (loadRead id s))) := by
  rw [execReqRead, h, if_pos rfl]

section
variable {reason : ReqStatus}

theorem execReqWrite_of_rejected (h : checkRequest (.write id count xlenOk) s = reason) (hne : reason ≠ .accepted) :
    execReqWrite id count xlenOk s = .next (answerRequest reason s) := by
  rw [execReqWrite, h, if_neg hne]

theorem execReqRead_of_rejected (h : checkRequest (.read id) s = reason) (hne : reason ≠ .accepted) :
    execReqRead id s = .next (answerRequest reason s) := by
  rw [execReqRead, h, if_neg hne]

theorem next_rejectIf_of_eq (h : checkRequest r s = reason) :
    (.next (rejectIf reason r s) : Host.Outcome State Fault Refusal) = .next (answerRequest reason s) :=
  congrArg _ (if_pos h)

theorem next_rejectIf_of_ne (h : checkRequest r s ≠ reason) :
    (.next (rejectIf reason r s) : Host.Outcome State Fault Refusal) = .next s :=
  congrArg _ (if_neg h)

end

/-- The zero bytes a read request writes over DESC (42_requests R177), and the bytes behind them. -/
theorem readByte_clearedDesc {m : Memory} (h : Memory.wf m = true) (a : Nat) :
    readByte (writeBytes m 0 (List.replicate descBytes 0)) a = if a < 72 then 0 else readByte m a := by
  rw [readByte_writeBytes h, List.length_replicate, descBytes]
  by_cases ha : a < 72
  · rw [if_pos ⟨Nat.zero_le a, by omega⟩, if_pos ha, List.getD_replicate _ (by omega)]
  · rw [if_neg (by omega), if_neg ha]

end

/-- Settles O24: an accepted write request is `loadWrite` and then `startSession`; its record is the one packed
(`writeBytes_record`). -/
theorem writeRequestAcceptedStartsASession : Obligations.WriteRequestAcceptedStartsASession := by
  intro s id count hwf hopen hlow hhigh hcount hmax
  have haccepted : checkRequest (.write id count true) s = .accepted :=
    checkRequest_write_accepted_iff.2 ⟨hopen, hlow, hhigh, hcount, rfl, hmax⟩
  have hexec := execReqWrite_of_accepted haccepted
  have hrecord := writeBytes_record hwf (requestFields id count s) 0 0
  rw [loadWrite, packDesc, packed] at hexec
  generalize writeBytes s.desc 0 ((requestFields id count s).bytes ++ [0, 0]) = desc at hexec hrecord
  exact ⟨_, hexec, rfl, hrecord⟩

/-- Settles O25: an accepted read request is `loadRead` and then `startSession`; its record reads 0
(`readByte_clearedDesc`). -/
theorem readRequestAcceptedStartsASession : Obligations.ReadRequestAcceptedStartsASession := by
  intro s id hwf hopen hlow hhigh
  have haccepted : checkRequest (.read id) s = .accepted :=
    checkRequest_read_accepted_iff.2 ⟨hopen, fun hid => hid.elim (Nat.not_lt.2 hlow) (Nat.not_lt.2 hhigh)⟩
  have hexec := execReqRead_of_accepted haccepted
  have hbytes := readByte_clearedDesc hwf
  rw [loadRead] at hexec
  generalize writeBytes s.desc 0 (List.replicate descBytes 0) = desc at hexec hbytes
  exact ⟨_, hexec, rfl, fun a ha => (hbytes a).trans (if_pos ha),
    fun a ha => (hbytes a).trans (if_neg (Nat.not_lt.2 ha))⟩

/-- Settles O26: the check a request fails first (R183) is its answer, and the answer of the row with this reason; a
row with another reason leaves the state. -/
theorem rejectedRequestsChangeNoRegister : Obligations.RejectedRequestsChangeNoRegister := by
  intro s id count ok
  obtain ⟨hnoDuration, hnoCount⟩ := checkRequest_read_ne (s := s) (id := id)
  refine ⟨fun hbusy => ?_, fun hopen hid => ?_, fun hopen hid hmax hdur => ?_,
    fun hopen hid hmax hcount hok hover => ?_, fun hopen => ?_, fun hpass => ?_, fun hpass => ?_, ?_, fun hpass => ?_, ?_⟩
  · have hfails (r : Request) : checkRequest r s = .busy := checkRequest_busy_iff.2 hbusy
    exact ⟨execReqWrite_of_rejected (hfails _) nofun, execReqRead_of_rejected (hfails _) nofun,
      next_rejectIf_of_eq (hfails _), next_rejectIf_of_eq (hfails _)⟩
  · have hfails (r : Request) (hr : requestId r = id) : checkRequest r s = .invalidId :=
      checkRequest_invalidId_iff.2 ⟨hopen, idInvalid_iff.2 (hr ▸ hid)⟩
    exact ⟨execReqWrite_of_rejected (hfails _ rfl) nofun, execReqRead_of_rejected (hfails _ rfl) nofun,
      next_rejectIf_of_eq (hfails _ rfl), next_rejectIf_of_eq (hfails _ rfl)⟩
  · have hfails : checkRequest (.write id count ok) s = .invalidDuration :=
      checkRequest_write_invalidDuration_iff.2 ⟨hopen, not_idInvalid_iff.2 ⟨hid, hmax⟩, hdur⟩
    exact ⟨execReqWrite_of_rejected hfails nofun, next_rejectIf_of_eq hfails⟩
  · have hfails : checkRequest (.write id count ok) s = .invalidCount :=
      checkRequest_write_invalidCount_iff.2 ⟨hopen, not_idInvalid_iff.2 ⟨hid, hmax⟩, ⟨hcount, hok⟩, hover⟩
    exact ⟨execReqWrite_of_rejected hfails nofun, next_rejectIf_of_eq hfails⟩
  · have hpasses (r : Request) : checkRequest r s ≠ .busy := mt checkRequest_busy_iff.1 hopen
    exact ⟨next_rejectIf_of_ne (hpasses _), next_rejectIf_of_ne (hpasses _)⟩
  · have hpasses (r : Request) (hr : requestId r = id) : checkRequest r s ≠ .invalidId :=
      checkRequest_ne_invalidId (hr ▸ hpass)
    exact ⟨next_rejectIf_of_ne (hpasses _ rfl), next_rejectIf_of_ne (hpasses _ rfl)⟩
  · exact next_rejectIf_of_ne (checkRequest_write_ne_invalidDuration hpass)
  · exact next_rejectIf_of_ne hnoDuration
  · exact next_rejectIf_of_ne (checkRequest_write_ne_invalidCount hpass)
  · exact next_rejectIf_of_ne hnoCount

/-! ### The host's write port (42_requests R188, 20_memory R90) -/

section
variable {s t : State}

theorem next_ifOpen_of_notBusy (h : s.xferState ≠ .busy) :
    (.next (if hostOpen s then t else s) : Host.Outcome State Fault Refusal) = .next t :=
  congrArg _ (if_pos (hostOpen_of_notBusy h))

theorem next_ifOpen_of_busy (h : s.xferState = .busy) :
    (.next (if hostOpen s then t else s) : Host.Outcome State Fault Refusal) = .next s :=
  congrArg _ (if_neg (hostOpen_of_busy h))

/-- While Busy every host write is ignored (93_implementation_defined U15). -/
theorem execHostWrite_of_busy (h : s.xferState = .busy) : (w : HostWrite) → execHostWrite w s = .next s
  | .setpoint _ _ => hostSetpoint_of_busy h
  | .setpointCount _ => congrArg _ (if_neg fun hopen => hostOpen_of_busy h hopen.1)
  | .objectType _ | .nameRaw _ | .xLength _ | .xDimUuid _ | .yDimUuid _ | .wizardType _ | .wizardParam _ _ =>
    next_ifOpen_of_busy h

theorem execHostWrite_setpointCount (h : s.xferState ≠ .busy) {n : Half} (hn : n.toNat ≤ s.params.maxSetpoints) :
    execHostWrite (.setpointCount n) s = .next { s with spCount := n } :=
  congrArg _ (if_pos ⟨hostOpen_of_notBusy h, hn⟩)

/-- POS.ENCODE while Busy: its tick is not stored, or it is refused (R165). -/
theorem execPosEncode_of_busy (h : s.xferState = .busy) (i : Half) (p : Real64) :
    execPosEncode i p s = .next s ∨ execPosEncode i p s = .refused .posDomain := by
  by_cases hfinite : fFinite p = true ∧ fFinite (fMul p positionScale) = true
  · by_cases htick : TickInRange (posRound s.params (fMul p positionScale))
    · exact .inl ((execPosEncode_of_tick hfinite.1 hfinite.2 htick).trans (hostSetpoint_of_busy h))
    · exact .inr (execPosEncode_of_noTick htick)
  · rw [not_and_or, Bool.not_eq_true, Bool.not_eq_true] at hfinite
    exact .inr (execPosEncode_of_notFinite hfinite)

end

/-- Settles O27: the closed port ignores every write; the open one stores a word of SP (`wordAt_storeWord`), a count in
its range, or one of the host's values. -/
theorem hostWritesStoreOnlyWhileNotBusy : Obligations.HostWritesStoreOnlyWhileNotBusy := by
  refine ⟨fun s hbusy => ⟨execHostWrite_of_busy hbusy, fun i p t ht => ?_⟩, fun s i v n j hwf hopen => ?_⟩
  · obtain hignored | hrefused := execPosEncode_of_busy hbusy i p
    · exact Host.Outcome.next.inj (ht.symm.trans hignored)
    · exact nomatch ht.symm.trans hrefused
  · have hopens {t : State} := next_ifOpen_of_notBusy (t := t) hopen
    refine ⟨fun hi => ?_, execHostWrite_setpointCount hopen, hopens, hopens, hopens, hopens, hopens, fun _ => hopens,
      _, hopens, rfl, fun k => ?_⟩
    · exact ⟨_, hostSetpoint_of_notBusy hopen hi, rfl, wordAt_storeWord hwf, fun _ => readByte_storeWord_outside hwf⟩
    · show (s.host.wizardParams.set j.val v)[k.val] = _
      rw [Vector.getElem_set]
      simp only [Fin.ext_iff, eq_comm]

end Sys2Proof.Machine
end

section
/-! The arms of part 4 (43_step_sequencer R206 to R214): an equation per branch of each arm, and the arms performed
alone (log 11). -/

namespace Sys2Proof.Machine

section
variable {s : State}

/-! ### SP.APPEND (45_word_serializer R258) -/

/-- The pending setpoint stored behind those received. -/
def appended (s : State) : State :=
  { s with sp := storeWord s.sp s.spCount.toNat s.rxPending, spCount := s.spCount + 1, rxPendingValid := false }

theorem appendPending_of_none (hp : s.rxPendingValid = false) : appendPending s = .go s := by simp [appendPending, hp]

theorem appendPending_of_room (hp : s.rxPendingValid = true) (hroom : s.spCount.toNat < s.params.maxSetpoints) :
    appendPending s = .go (appended s) := by
  simp [appendPending, appended, hp, Nat.not_le.2 hroom]

theorem appendPending_of_full (hp : s.rxPendingValid = true) (hfull : s.params.maxSetpoints ≤ s.spCount.toNat) :
    appendPending s = .ended (failed .overflow 0 s) := by
  simp [appendPending, hp, hfull, raiseFail]

/-! ### STEP.INIT and STEP.SENDCMD (R206, R207) -/

theorem armInit_of_write (hd : s.dir = .write) :
    armInit s = .go (setCodes 0x0F 0x0F (emit (.deleteCurveReq s.curveId) s)) := by
  rw [armInit, if_pos hd]

theorem armInit_of_read (hd : s.dir = .read) : armInit s = .go (setCodes 0x0F 0x0F s) := by
  rw [armInit, if_neg (by simp [hd])]

theorem sizeWord_of_read (hd : s.dir = .read) : sizeWord s = 0 := by simp [sizeWord, hd]

/-- The registers STEP.SENDCMD leaves once both words are written. -/
def commanded (s : State) : State :=
  { s with
    log := s.log ++ [.write .indexOut (iwBits s.curveId), .write .valueOut (sizeWord s)]
    toggle := true
    txSrc := .fromDesc
    txPos := 0
    txLen := 18
    rxTarget := .toDesc
    rxCount := 0
    rxCap := 18
    nextModeStatus := 0x01
    expectedStatus := 0x01 }

theorem armSendcmd_true_true : armSendcmd true true s = .go (commanded s) := by
  simp [armSendcmd, emit, setToggle, sizeWord, loadTxDesc, armRxDesc, setCodes, commanded]

/-! ### STEP.CURVEINFO (R208) -/

/-- The codes of a data phase for the toggle the arm left, and the response asked for (30_encoding R105,
10_state R28). -/
def dataCodes (adv steady : Word) (s : State) : State :=
  armResponse (setCodes (codeWithToggle adv s) (codeWithToggle steady s) s)

theorem codeWithToggle_ofNat (n : Nat) (s : State) :
    codeWithToggle (BitVec.ofNat 32 n) s = BitVec.ofNat 32 (n + s.toggle.toNat) := by
  rw [codeWithToggle, BitVec.ofNat_add]
  cases s.toggle <;> rfl

theorem dataCodes_ofNat (adv steady : Nat) {read : Bool} (hr : decide (s.dir = .read) = read) :
    dataCodes (BitVec.ofNat 32 adv) (BitVec.ofNat 32 steady) s = { s with
      nextModeStatus := BitVec.ofNat 32 (adv + s.toggle.toNat)
      expectedStatus := BitVec.ofNat 32 (steady + s.toggle.toNat)
      bufferResponse := read } := by
  rw [dataCodes, codeWithToggle_ofNat, codeWithToggle_ofNat, armResponse, ← hr]
  rfl

theorem enterCurveinfo_of_write (hd : s.dir = .write) : enterCurveinfo s = loadTxDesc s := by simp [enterCurveinfo, hd]

theorem enterCurveinfo_of_read (hd : s.dir = .read) : enterCurveinfo s = armRxDesc s := by simp [enterCurveinfo, hd]

theorem armCurveinfo_of_entry (hc : s.changedMode = true) :
    armCurveinfo s = .go (dataCodes 0x02 0x402 (flipToggle (enterCurveinfo s))) := by
  rw [armCurveinfo, if_pos hc]; rfl

theorem armCurveinfo_of_reentry (hc : s.changedMode = false) :
    armCurveinfo s = .go (dataCodes 0x02 0x402 (flipToggle s)) := by
  rw [armCurveinfo, if_neg (by simp [hc])]; rfl

/-! ### STEP.SETPOINTS (R210) -/

theorem armSetpoints_of_entry_write (hc : s.changedMode = true) (hd : s.dir = .write) :
    armSetpoints s = .go (dataCodes 0x04 0x404 (loadTxSp (setToggle false s))) := by
  simp [armSetpoints, enterSetpoints, hc, hd, dataCodes]

theorem armSetpoints_of_entry_read (hc : s.changedMode = true) (hd : s.dir = .read) (hcount : s.rxCount.toNat = 18) :
    armSetpoints s = .go (dataCodes 0x04 0x404 (armRxSp { setToggle false s with spCount := 0 })) := by
  simp [armSetpoints, enterSetpoints, hc, hd, hcount, descWords, dataCodes]

theorem armSetpoints_of_entry_short (hc : s.changedMode = true) (hd : s.dir = .read) (hcount : s.rxCount.toNat ≠ 18) :
    armSetpoints s = .ended (failed .responseSize 0 (setToggle false s)) := by
  simp [armSetpoints, enterSetpoints, hc, hd, hcount, descWords, raiseFail]

theorem armSetpoints_of_reentry_write (hc : s.changedMode = false) (hd : s.dir = .write) :
    armSetpoints s = .go (dataCodes 0x04 0x404 (flipToggle s)) := by
  simp [armSetpoints, enterSetpoints, hc, flipToggle, hd, dataCodes]

theorem armSetpoints_of_reentry_read (hc : s.changedMode = false) (hd : s.dir = .read) :
    armSetpoints s = (appendPending (flipToggle s)).andThen fun u => .go (dataCodes 0x04 0x404 u) := by
  simp [armSetpoints, enterSetpoints, hc, flipToggle, hd, dataCodes]

/-! ### STEP.FINISHED (R212) -/

theorem finishRead_of_write (hd : s.dir = .write) : finishRead s = .go s := by simp [finishRead, hd]

theorem finishRead_of_read (hd : s.dir = .read) :
    finishRead s = (appendPending s).andThen fun u => .go (emit .projectionReq u) := by
  simp [finishRead, hd]

theorem armFinished_of_write (hd : s.dir = .write) : armFinished s = .ended (reportSuccess s) := by
  rw [armFinished, finishRead_of_write hd, andThen_go]

theorem armFinished_of_read_none (hd : s.dir = .read) (hp : s.rxPendingValid = false) :
    armFinished s = .ended (reportSuccess (emit .projectionReq s)) := by
  simp [armFinished, finishRead_of_read hd, appendPending_of_none hp]

theorem armFinished_of_read_room (hd : s.dir = .read) (hp : s.rxPendingValid = true)
    (hroom : s.spCount.toNat < s.params.maxSetpoints) :
    armFinished s = .ended (reportSuccess (emit .projectionReq (appended s))) := by
  simp [armFinished, finishRead_of_read hd, appendPending_of_room hp hroom]

theorem armFinished_of_read_full (hd : s.dir = .read) (hp : s.rxPendingValid = true)
    (hfull : s.params.maxSetpoints ≤ s.spCount.toNat) :
    armFinished s = .ended (failed .overflow 0 s) := by
  simp [armFinished, finishRead_of_read hd, appendPending_of_full hp hfull]

/-! ### Everything an arm can do -/

theorem armCurveinfo_cases (s : State) :
    (s.changedMode = true ∧ s.dir = .write ∧
      armCurveinfo s = .go (dataCodes 0x02 0x402 (flipToggle (loadTxDesc s)))) ∨
    (s.changedMode = true ∧ s.dir = .read ∧
      armCurveinfo s = .go (dataCodes 0x02 0x402 (flipToggle (armRxDesc s)))) ∨
    (s.changedMode = false ∧ armCurveinfo s = .go (dataCodes 0x02 0x402 (flipToggle s))) := by
  cases hc : s.changedMode with
  | false => exact .inr (.inr ⟨rfl, armCurveinfo_of_reentry hc⟩)
  | true =>
    cases hd : s.dir with
    | write => exact .inl ⟨rfl, rfl, by rw [armCurveinfo_of_entry hc, enterCurveinfo_of_write hd]⟩
    | read => exact .inr (.inl ⟨rfl, rfl, by rw [armCurveinfo_of_entry hc, enterCurveinfo_of_read hd]⟩)

theorem armSetpoints_entry_cases (hc : s.changedMode = true) :
    (s.dir = .write ∧ armSetpoints s = .go (dataCodes 0x04 0x404 (loadTxSp (setToggle false s)))) ∨
    (s.dir = .read ∧ s.rxCount.toNat = 18 ∧
      armSetpoints s = .go (dataCodes 0x04 0x404 (armRxSp { setToggle false s with spCount := 0 }))) ∨
    armSetpoints s = .ended (failed .responseSize 0 (setToggle false s)) := by
  cases hd : s.dir with
  | write => exact .inl ⟨rfl, armSetpoints_of_entry_write hc hd⟩
  | read =>
    by_cases hcount : s.rxCount.toNat = 18
    · exact .inr (.inl ⟨rfl, hcount, armSetpoints_of_entry_read hc hd hcount⟩)
    · exact .inr (.inr (armSetpoints_of_entry_short hc hd hcount))

theorem armSetpoints_reentry_cases (hc : s.changedMode = false) :
    (s.dir = .write ∧ armSetpoints s = .go (dataCodes 0x04 0x404 (flipToggle s))) ∨
    (s.dir = .read ∧ s.rxPendingValid = false ∧ armSetpoints s = .go (dataCodes 0x04 0x404 (flipToggle s))) ∨
    (s.dir = .read ∧ s.spCount.toNat < s.params.maxSetpoints ∧
      armSetpoints s = .go (dataCodes 0x04 0x404 (appended (flipToggle s)))) ∨
    armSetpoints s = .ended (failed .overflow 0 (flipToggle s)) := by
  cases hd : s.dir with
  | write => exact .inl ⟨rfl, armSetpoints_of_reentry_write hc hd⟩
  | read =>
    rw [armSetpoints_of_reentry_read hc hd]
    obtain ⟨hp, e⟩ | ⟨-, -, e⟩ | ⟨-, hroom, e⟩ := appendPending_cases (flipToggle s) <;> rw [e]
    · exact .inr (.inl ⟨rfl, hp, rfl⟩)
    · exact .inr (.inr (.inr rfl))
    · exact .inr (.inr (.inl ⟨rfl, hroom, rfl⟩))

theorem armFinished_cases (s : State) :
    (s.dir = .write ∧ armFinished s = .ended (reportSuccess s)) ∨
    (s.dir = .read ∧ armFinished s = .ended (reportSuccess (emit .projectionReq s))) ∨
    (s.dir = .read ∧ armFinished s = .ended (reportSuccess (emit .projectionReq (appended s)))) ∨
    (s.dir = .read ∧ armFinished s = .ended (failed .overflow 0 s)) := by
  cases hd : s.dir with
  | write => exact .inl ⟨rfl, armFinished_of_write hd⟩
  | read =>
    cases hp : s.rxPendingValid with
    | false => exact .inr (.inl ⟨rfl, armFinished_of_read_none hd hp⟩)
    | true =>
      by_cases hroom : s.spCount.toNat < s.params.maxSetpoints
      · exact .inr (.inr (.inl ⟨rfl, armFinished_of_read_room hd hp hroom⟩))
      · exact .inr (.inr (.inr ⟨rfl, armFinished_of_read_full hd hp (Nat.not_lt.1 hroom)⟩))

/-! ### The arms performed alone -/

theorem exec_stepInit (hst : s.state = stInit) : exec .stepInit s = settle s (armInit s) :=
  congrArg (settle s) (if_pos hst)

theorem exec_stepSendcmd (hst : s.state = stSendCommand) (indexOk valueOk : Bool) :
    exec (.stepSendcmd indexOk valueOk) s = settle s (armSendcmd indexOk valueOk s) :=
  congrArg (settle s) (if_pos hst)

theorem exec_stepCurveinfo (hst : s.state = stCurveInfo) : exec .stepCurveinfo s = settle s (armCurveinfo s) :=
  congrArg (settle s) (if_pos hst)

theorem exec_stepSetpoints (hst : s.state = stSetpoints) : exec .stepSetpoints s = settle s (armSetpoints s) :=
  congrArg (settle s) (if_pos hst)

theorem exec_stepFinished (hst : s.state = stFinished) : exec .stepFinished s = settle s (armFinished s) :=
  congrArg (settle s) (if_pos hst)

theorem exec_stepUnknown (hst : 4 < s.state.toNat) : exec .stepUnknown s = settle s (armUnknown s) :=
  congrArg (settle s) (if_neg (Nat.not_le.2 hst))

end

/-- Settles O36: the two directions of the arm. -/
theorem initArmIsTheRule : Obligations.InitArmIsTheRule := fun _ hst =>
  ⟨fun hd => by rw [exec_stepInit hst, armInit_of_write hd]; rfl,
    fun hd => by rw [exec_stepInit hst, armInit_of_read hd]; rfl⟩

/-- Settles O37: both writes ok, the index write failed, the size write failed. -/
theorem sendCommandArmIsTheRule : Obligations.SendCommandArmIsTheRule := by
  intro s hst
  refine ⟨?_, fun ok => exec_stepSendcmd hst false ok, ?_⟩
  · rw [exec_stepSendcmd hst, armSendcmd_true_true, settle_go, commanded, iwBits_eq_ofNat]
    cases hd : s.dir with
    | write => simp only [sizeWord_of_write hd, blockSize_eq_ofNat]
    | read => simp only [sizeWord_of_read hd]
  · rw [exec_stepSendcmd hst, ← iwBits_eq_ofNat]
    rfl

/-- Settles O38: the entry in each direction, and the re-entry. -/
theorem curveInfoArmIsTheRule : Obligations.CurveInfoArmIsTheRule := by
  intro s hst
  rw [exec_stepCurveinfo hst]
  refine ⟨fun hc hd => ?_, fun hc hd => ?_, fun hc => ?_⟩
  · rw [armCurveinfo_of_entry hc, enterCurveinfo_of_write hd]
    exact congrArg Host.Outcome.next (dataCodes_ofNat 0x002 0x402 (by simp [flipToggle, hd]))
  · rw [armCurveinfo_of_entry hc, enterCurveinfo_of_read hd]
    exact congrArg Host.Outcome.next (dataCodes_ofNat 0x002 0x402 (by simp [flipToggle, hd]))
  · rw [armCurveinfo_of_reentry hc]
    exact congrArg Host.Outcome.next (dataCodes_ofNat 0x002 0x402 rfl)

/-- Settles O39: the entry and the re-entry, writing and reading. -/
theorem setpointsArmIsTheRule : Obligations.SetpointsArmIsTheRule := by
  intro s hst hwf
  rw [exec_stepSetpoints hst]
  refine ⟨fun hc hd => ?_, fun hc hd hcount => ?_, fun hc hd hcount => ?_, fun hc hd => ?_, fun hc hd hp hroom => ?_,
    fun hc hd hp hfull => ?_, fun hc hd hp => ?_⟩
  · rw [armSetpoints_of_entry_write hc hd]
    exact congrArg Host.Outcome.next (dataCodes_ofNat 0x004 0x404 (by simp [hd]))
  · rw [armSetpoints_of_entry_read hc hd (by simp [hcount])]
    exact congrArg Host.Outcome.next (dataCodes_ofNat 0x004 0x404 (by simp [hd]))
  · rw [armSetpoints_of_entry_short hc hd fun h => hcount (BitVec.eq_of_toNat_eq h)]
    rfl
  · rw [armSetpoints_of_reentry_write hc hd]
    exact congrArg Host.Outcome.next (dataCodes_ofNat 0x004 0x404 (by simp [flipToggle, hd]))
  · rw [armSetpoints_of_reentry_read hc hd, appendPending_of_room (s := flipToggle s) hp hroom, andThen_go]
    exact ⟨_, rfl, dataCodes_ofNat 0x004 0x404 (by simp [appended, flipToggle, hd]), wordAt_storeWord hwf,
      fun _ => readByte_storeWord_outside hwf⟩
  · rw [armSetpoints_of_reentry_read hc hd, appendPending_of_full (s := flipToggle s) hp hfull]
    rfl
  · rw [armSetpoints_of_reentry_read hc hd, appendPending_of_none (s := flipToggle s) hp, andThen_go]
    exact congrArg Host.Outcome.next (dataCodes_ofNat 0x004 0x404 (by simp [flipToggle, hd]))

/-- Settles O40: the write session, and the read session with room and with SP full. -/
theorem finishedArmIsTheRule : Obligations.FinishedArmIsTheRule := by
  intro s hst hwf
  rw [exec_stepFinished hst]
  refine ⟨fun hd => ?_, fun hd hp hroom => ?_, fun hd hp hfull => ?_⟩
  · rw [armFinished_of_write hd]
    rfl
  · rw [armFinished_of_read_room hd hp hroom]
    exact ⟨_, rfl, rfl, wordAt_storeWord hwf, fun _ => readByte_storeWord_outside hwf⟩
  · rw [armFinished_of_read_full hd hp hfull]
    rfl

/-- Settles O41: the arm is the failure entry. -/
theorem unknownStateFailsTheSession : Obligations.UnknownStateFailsTheSession := fun _ hst => exec_stepUnknown hst

end Sys2Proof.Machine
end

section
/-! The invariant of a session (43_step_sequencer R213, R215): every event of the surroundings keeps it. A step is cut
where a part hands over to the next: what part 2 has decided, what the arm of part 4 leaves, and the end of the step. -/

namespace Sys2Proof.Machine

/-! ### What a part of a step leads to -/

/-- The part goes on only with `P`, and ends the step only with `E`. -/
def Flow.Leads (P E : State → Prop) : Flow → Prop
  | .go u => P u
  | .ended u => E u
  | .abandon _ => True
  | .fault _ => True

section
variable {P Q E : State → Prop} {x : Flow} {f : State → Flow}

theorem leads_andThen (hx : x.Leads P E) (hf : ∀ u, P u → (f u).Leads Q E) : (x.andThen f).Leads Q E := by
  cases x with
  | go u => exact hf u hx
  | ended u => exact hx
  | abandon l => trivial
  | fault e => trivial

theorem leads_mono {R F : State → Prop} (hx : x.Leads P E) (hP : ∀ u, P u → R u) (hE : ∀ u, E u → F u) :
    x.Leads R F := by
  cases x with
  | go u => exact hP u hx
  | ended u => exact hE u hx
  | abandon l => trivial
  | fault e => trivial

/-- A settled operation leads where its parts do, or it changes no register. -/
theorem settle_next_of_leads {s t : State} (hx : x.Leads E E) (h : settle s x = .next t) :
    E t ∨ ∃ l, t = { s with log := l } := by
  obtain rfl | rfl | ⟨l, -, rfl⟩ := settle_next h
  · exact .inl hx
  · exact .inl hx
  · exact .inr ⟨l, rfl⟩

theorem leads_regReads {c : Cycle} {s : State} (h : P s) : (regReads c s).Leads P E := by
  obtain ⟨-, -, e⟩ | ⟨-, e⟩ := regReads_cases c s <;> rw [e]
  · exact h
  · trivial

end

/-! ### A session inside a step -/

/-- What every part of a step keeps until the step ends: the session is in flight, its step has the lock. -/
structure Running (s : State) : Prop where
  busy : s.xferState = .busy
  lock : s.lock = .stepped
  noFailure : s.failReason = .none
  success : s.result = .success
  message : s.message = .busy
  curveId : 1 ≤ s.curveId.toNat ∧ s.curveId.toNat ≤ s.params.maxCurveId
  counter : s.timeoutCtr.toNat ≤ s.params.timeoutCycles + 1
  described : s.dir = .write → rd16 s.desc 4 = s.spCount ∧ rd16 s.desc 30 = s.curveId ∧ 1 ≤ s.spCount.toNat

/-- The last setpoint word of a read session is on its way into SP: the step re-enters `Setpoints`, or finishes. -/
def TakesSetpoint (s : State) : Prop :=
  s.dir = .read ∧ (s.state = stFinished ∨ s.state = stSetpoints ∧ s.changedMode = false)

/-- Between part 2 and part 4: the phase is decided, its arm has not run. Only a phase that is re-entered says anything
of its cursors. -/
structure Decided (s : State) : Prop extends Running s where
  phase : s.state.toNat ≤ 4
  pending : s.rxPendingValid = true → TakesSetpoint s
  target : s.bufferResponse = true → s.rxTarget = .toPending → TakesSetpoint s
  response : s.bufferResponse = true → s.dir = .read ∧ s.state ≠ stInit ∧ s.state ≠ stSendCommand
  curveInfo : s.state = stCurveInfo → s.changedMode = false →
    (s.dir = .read → s.rxTarget = .toDesc ∧ s.rxCap = 18) ∧ (s.dir = .write → s.txSrc = .fromDesc ∧ s.txLen = 18)
  setpoints : s.state = stSetpoints → s.changedMode = false →
    (s.dir = .read → s.rxTarget = .toPending ∧ s.rxCount = 18) ∧
    (s.dir = .write → s.txSrc = .fromSp ∧ s.txLen = s.spCount)

/-- The codes, the response and the cursors of a phase, as its arm leaves them (R206 to R210). -/
inductive PhaseRegisters (s : State) : Prop
  | init (state : s.state = stInit) (adv : s.nextModeStatus = 0x0F) (steady : s.expectedStatus = 0x0F)
    (response : s.bufferResponse = false)
  | sendCommand (state : s.state = stSendCommand) (toggle : s.toggle = true) (adv : s.nextModeStatus = 0x01)
    (steady : s.expectedStatus = 0x01) (response : s.bufferResponse = false)
  | curveInfo (state : s.state = stCurveInfo) (adv : s.nextModeStatus = 0x02 + bit 32 s.toggle)
    (steady : s.expectedStatus = 0x402 + bit 32 s.toggle) (response : s.bufferResponse = decide (s.dir = .read))
    (receives : s.dir = .read → s.rxTarget = .toDesc ∧ s.rxCap = 18)
    (sends : s.dir = .write → s.txSrc = .fromDesc ∧ s.txLen = 18)
  | setpoints (state : s.state = stSetpoints) (adv : s.nextModeStatus = 0x04 + bit 32 s.toggle)
    (steady : s.expectedStatus = 0x404 + bit 32 s.toggle) (response : s.bufferResponse = decide (s.dir = .read))
    (receives : s.dir = .read → s.rxTarget = .toPending ∧ s.rxCount = 18)
    (sends : s.dir = .write → s.txSrc = .fromSp ∧ s.txLen = s.spCount)

/-- After part 4 of a step that goes on. -/
structure Exchanging (s : State) : Prop extends Running s where
  pending : s.rxPendingValid = false
  registers : PhaseRegisters s

section
variable {s : State}

/-! ### The registers of the phase the engine is in -/

theorem PhaseRegisters.phase (h : PhaseRegisters s) : s.state.toNat ≤ 3 := by
  cases h <;> simp [*, stInit, stSendCommand, stCurveInfo, stSetpoints]

theorem PhaseRegisters.codesInit (h : PhaseRegisters s) (hst : s.state = stInit) :
    s.nextModeStatus = 0x0F ∧ s.expectedStatus = 0x0F := by
  cases h with
  | init _ hadv hsteady => exact ⟨hadv, hsteady⟩
  | sendCommand hne | curveInfo hne | setpoints hne => exact absurd (hne.symm.trans hst) (by decide)

theorem PhaseRegisters.codesSend (h : PhaseRegisters s) (hst : s.state = stSendCommand) :
    s.toggle = true ∧ s.nextModeStatus = 0x01 ∧ s.expectedStatus = 0x01 := by
  cases h with
  | sendCommand _ htoggle hadv hsteady => exact ⟨htoggle, hadv, hsteady⟩
  | init hne | curveInfo hne | setpoints hne => exact absurd (hne.symm.trans hst) (by decide)

theorem PhaseRegisters.ofCurveInfo (h : PhaseRegisters s) (hst : s.state = stCurveInfo) :
    (s.nextModeStatus = 0x02 + bit 32 s.toggle ∧ s.expectedStatus = 0x402 + bit 32 s.toggle) ∧
    (s.dir = .read → s.rxTarget = .toDesc ∧ s.rxCap = 18) ∧ (s.dir = .write → s.txSrc = .fromDesc ∧ s.txLen = 18) := by
  cases h with
  | curveInfo _ hadv hsteady _ hrx htx => exact ⟨⟨hadv, hsteady⟩, hrx, htx⟩
  | init hne | sendCommand hne | setpoints hne => exact absurd (hne.symm.trans hst) (by decide)

theorem PhaseRegisters.ofSetpoints (h : PhaseRegisters s) (hst : s.state = stSetpoints) :
    (s.nextModeStatus = 0x04 + bit 32 s.toggle ∧ s.expectedStatus = 0x404 + bit 32 s.toggle) ∧
    (s.dir = .read → s.rxTarget = .toPending ∧ s.rxCount = 18) ∧
    (s.dir = .write → s.txSrc = .fromSp ∧ s.txLen = s.spCount) := by
  cases h with
  | setpoints _ hadv hsteady _ hrx htx => exact ⟨⟨hadv, hsteady⟩, hrx, htx⟩
  | init hne | sendCommand hne | curveInfo hne => exact absurd (hne.symm.trans hst) (by decide)

theorem PhaseRegisters.response_iff (h : PhaseRegisters s) :
    s.bufferResponse = true ↔ s.dir = .read ∧ (s.state = stCurveInfo ∨ s.state = stSetpoints) := by
  cases h with
  | init hst _ _ hresponse | sendCommand hst _ _ _ hresponse =>
    simp [hresponse, hst, stInit, stSendCommand, stCurveInfo, stSetpoints]
  | curveInfo hst _ _ hresponse | setpoints hst _ _ hresponse => simp [hresponse, hst]

/-! ### How a step can end (60_exceptions R310, 43_step_sequencer R212) -/

/-- Where the engine is not busy a session asks for its result alone. -/
theorem session_of_not_busy (hbusy : s.xferState ≠ .busy)
    (hidle : s.xferState = .idle → s.state = stInit ∧ s.failReason = .none ∧ s.result = .success ∧ s.message = .none)
    (hdone : s.xferState = .done →
      (s.state = stFinished ∧ s.failReason = .none ∧ s.result = .success ∧ s.message = .done) ∨
      (s.state = stFailed ∧ s.result = .failure ∧ ∃ k, s.failReason = .cause k ∧ s.message = causeMessage k))
    (hcounter : s.timeoutCtr.toNat ≤ s.params.timeoutCycles + 1) (hlock : ¬ (s.lock = .waiting ∨ s.lock = .held)) :
    Session s where
  idle := hidle
  busy hb := absurd hb hbusy
  done := hdone
  curveId hb := absurd hb hbusy
  waits hb := absurd hb hbusy
  codesInit hb := absurd hb hbusy
  codesSend hb := absurd hb hbusy
  codesCurve hb := absurd hb hbusy
  codesSet hb := absurd hb hbusy
  response hb := absurd hb hbusy
  pending hb := absurd hb hbusy
  looks hb := absurd hb hbusy
  counter := hcounter
  curveInfo hb := absurd hb hbusy
  setpoints hb := absurd hb hbusy
  due hl := absurd hl hlock
  described hb := absurd hb hbusy

theorem Running.not_due (h : Running s) : ¬ (s.lock = .waiting ∨ s.lock = .held) := by simp [h.lock]

theorem session_failed (k : Cause) (code : Byte) (h : Running s) : Session (failed k code s) :=
  session_of_not_busy nofun nofun (fun _ => .inr ⟨rfl, rfl, k, rfl, rfl⟩) h.counter h.not_due

theorem session_reportSuccess (h : Running s) (hst : s.state = stFinished) : Session (reportSuccess s) :=
  session_of_not_busy nofun nofun (fun _ => .inl ⟨hst, h.noFailure, rfl, rfl⟩) h.counter h.not_due

/-- Parts 6 and 7 complete what an arm leaves: the wait is armed with all its looks (46_timeout_error R274). -/
theorem session_armWait (h : Exchanging s) : Session (armWait s) where
  idle hidle := nomatch h.busy.symm.trans hidle
  busy _ := ⟨h.registers.phase, h.noFailure, h.success, h.message⟩
  done hdone := nomatch h.busy.symm.trans hdone
  curveId _ := h.curveId
  waits _ _ := rfl
  codesInit _ hst _ := h.registers.codesInit hst
  codesSend _ hst := h.registers.codesSend hst
  codesCurve _ hst := (h.registers.ofCurveInfo hst).1
  codesSet _ hst := (h.registers.ofSetpoints hst).1
  response _ := h.registers.response_iff
  pending _ := h.pending
  looks _ := Nat.zero_le _
  counter := Nat.zero_le _
  curveInfo _ hst := (h.registers.ofCurveInfo hst).2
  setpoints _ hst := (h.registers.ofSetpoints hst).2
  due _ := h.busy
  described _ := h.described

/-! ### Part 2 -/

theorem running_of_session (h : Session s) (hbusy : s.xferState = .busy) (hlock : s.lock = .stepped) : Running s where
  busy := hbusy
  lock := hlock
  noFailure := (h.busy hbusy).2.1
  success := (h.busy hbusy).2.2.1
  message := (h.busy hbusy).2.2.2
  curveId := h.curveId hbusy
  counter := h.counter
  described := h.described hbusy

/-- With reception armed into the pending register a session in flight is in `Setpoints`. -/
theorem setpoints_of_target (h : Session s) (hbusy : s.xferState = .busy) (hb : s.bufferResponse = true)
    (ht : s.rxTarget = .toPending) : s.dir = .read ∧ s.state = stSetpoints := by
  obtain ⟨hd, hcurve | hset⟩ := (h.response hbusy).1 hb
  · exact nomatch ((h.curveInfo hbusy hcurve).1 hd).1.symm.trans ht
  · exact ⟨hd, hset⟩

/-- The engine stays in its phase and re-enters it. -/
theorem decided_of_session (h : Session s) (hbusy : s.xferState = .busy) (hlock : s.lock = .stepped)
    (hc : s.changedMode = false) : Decided s where
  toRunning := running_of_session h hbusy hlock
  phase := (h.busy hbusy).1.trans (by decide)
  pending hp := by simp [h.pending hbusy] at hp
  target hb ht :=
    have ⟨hd, hst⟩ := setpoints_of_target h hbusy hb ht
    ⟨hd, .inr ⟨hst, hc⟩⟩
  response hb := by
    obtain ⟨hd, hst | hst⟩ := (h.response hbusy).1 hb <;> rw [hst] <;> exact ⟨hd, by decide, by decide⟩
  curveInfo hst _ := h.curveInfo hbusy hst
  setpoints hst _ := h.setpoints hbusy hst

/-- The successor of a phase in which a response is armed. -/
theorem succState_of_response (h : Session s) (hbusy : s.xferState = .busy) (hb : s.bufferResponse = true) :
    s.dir = .read ∧ succState s.state ≠ stInit ∧ succState s.state ≠ stSendCommand := by
  obtain ⟨hd, hst | hst⟩ := (h.response hbusy).1 hb <;> rw [hst] <;> exact ⟨hd, by decide, by decide⟩

/-- The engine advances and enters its next phase (44_toggle_status_decode R237). -/
theorem decided_advance (h : Session s) (hbusy : s.xferState = .busy) (hlock : s.lock = .stepped) :
    Decided (advance s) where
  toRunning := { running_of_session h hbusy hlock with }
  phase := by
    have hphase : ∀ v : BitVec 3, v.toNat ≤ 3 → (succState v).toNat ≤ 4 := by decide
    exact hphase s.state (h.busy hbusy).1
  pending hp := by simp [h.pending hbusy] at hp
  target hb ht := by
    obtain ⟨hd, hst⟩ := setpoints_of_target h hbusy hb ht
    refine ⟨hd, .inl ?_⟩
    rw [advance_state, hst]
    rfl
  response hb := succState_of_response h hbusy hb
  curveInfo _ := nofun
  setpoints _ := nofun

/-- Another look of the device, within its looks (46_timeout_error R270, R272). -/
theorem session_withLook {n : Word} (h : Session s) (hn : n.toNat ≤ s.params.timeoutCycles) :
    Session { s with timeoutCtr := n } :=
  { h with looks := fun _ => hn, counter := Nat.le_succ_of_le hn }

theorem leads_part2 (sw : Word) (h : Session s) (hbusy : s.xferState = .busy) (hlock : s.lock = .stepped)
    (hc : s.changedMode = false) : (part2 sw s).Leads Decided Session := by
  have hrunning := running_of_session h hbusy hlock
  obtain ⟨-, e⟩ | ⟨-, -, e⟩ | ⟨-, hlooks, e⟩ := part2_cases sw s <;> rw [e]
  · exact decided_of_session h hbusy hlock hc
  · exact session_failed _ _ { hrunning with counter := toNat_succ_le (Nat.lt_succ_of_le (h.looks hbusy)) }
  · have hlooked := session_withLook h hlooks
    obtain ⟨-, e⟩ | ⟨-, e⟩ | ⟨-, e⟩ | ⟨-, e⟩ :=
      actOnStatus_cases sw { s with timeoutCtr := s.timeoutCtr + 1 } <;> rw [e]
    · exact decided_advance hlooked hbusy hlock
    · exact decided_of_session hlooked hbusy hlock hc
    · exact session_failed _ _ (running_of_session hlooked hbusy hlock)
    · exact hlooked

/-! ### Part 3 -/

theorem leads_receive (v : Word) (h : Decided s) : (receive v s).Leads Decided Session := by
  obtain ⟨-, e⟩ | ⟨-, -, -, e⟩ | ⟨hb, ht, -, -, e⟩ | ⟨-, -, -, -, e⟩ | ⟨hb, ht, e⟩ := receive_cases v s <;> rw [e]
  · exact h
  · exact session_failed _ _ h.toRunning
  · have hread : s.dir ≠ .write := by simp [(h.response hb).1]
    exact { h with
      described := fun hd => absurd hd hread
      setpoints := fun hst hc => ⟨fun hd => by simp [((h.setpoints hst hc).1 hd).1] at ht, fun hd => absurd hd hread⟩ }
  · trivial
  · exact { h with pending := fun _ => h.target hb ht }

/-! ### Part 4 -/

/-- Nothing is pending where no setpoint word is on its way. -/
theorem Decided.not_pending (h : Decided s) (hne : ¬ TakesSetpoint s) : s.rxPendingValid = false :=
  Bool.eq_false_of_not_eq_true fun hp => hne (h.pending hp)

theorem Decided.noResponse (h : Decided s) (hst : s.state = stInit ∨ s.state = stSendCommand) :
    s.bufferResponse = false :=
  Bool.eq_false_of_not_eq_true fun hb => hst.elim (h.response hb).2.1 (h.response hb).2.2

theorem not_takesSetpoint_of_entry (hc : s.changedMode = true) (hst : s.state ≠ stFinished) : ¬ TakesSetpoint s := by
  rintro ⟨-, h | ⟨-, h⟩⟩
  · exact hst h
  · simp [hc] at h

theorem not_takesSetpoint_of_state (hfin : s.state ≠ stFinished) (hset : s.state ≠ stSetpoints) :
    ¬ TakesSetpoint s := by
  rintro ⟨-, h | ⟨h, -⟩⟩
  · exact hfin h
  · exact hset h

theorem leads_armInit (h : Decided s) (hst : s.state = stInit) : (armInit s).Leads Exchanging Session := by
  have hp : s.rxPendingValid = false := h.not_pending (not_takesSetpoint_of_state (by simp [hst, stInit, stFinished])
    (by simp [hst, stInit, stSetpoints]))
  have hb := h.noResponse (.inl hst)
  cases hd : s.dir with
  | write =>
    rw [armInit_of_write hd]
    exact { h.toRunning with pending := hp, registers := .init hst rfl rfl hb }
  | read =>
    rw [armInit_of_read hd]
    exact { h.toRunning with pending := hp, registers := .init hst rfl rfl hb }

theorem leads_armSendcmd (indexOk valueOk : Bool) (h : Decided s) (hst : s.state = stSendCommand) :
    (armSendcmd indexOk valueOk s).Leads Exchanging Session := by
  have hp : s.rxPendingValid = false := h.not_pending (not_takesSetpoint_of_state
    (by simp [hst, stSendCommand, stFinished]) (by simp [hst, stSendCommand, stSetpoints]))
  have hb := h.noResponse (.inr hst)
  have hcommanded : Exchanging (commanded s) :=
    { h.toRunning with pending := hp, registers := .sendCommand hst rfl rfl rfl hb }
  cases indexOk with
  | false => trivial
  | true =>
    cases valueOk with
    | false => trivial
    | true => rw [armSendcmd_true_true]; exact hcommanded

theorem leads_armCurveinfo (h : Decided s) (hst : s.state = stCurveInfo) :
    (armCurveinfo s).Leads Exchanging Session := by
  have hp : s.rxPendingValid = false := h.not_pending (not_takesSetpoint_of_state
    (by simp [hst, stCurveInfo, stFinished]) (by simp [hst, stCurveInfo, stSetpoints]))
  obtain ⟨-, hd, e⟩ | ⟨-, hd, e⟩ | ⟨hc, e⟩ := armCurveinfo_cases s <;> rw [e]
  · have hread : s.dir ≠ .read := by simp [hd]
    exact { h.toRunning with
      pending := hp
      registers := .curveInfo hst rfl rfl rfl (fun hr => absurd hr hread) fun _ => ⟨rfl, rfl⟩ }
  · have hwrite : s.dir ≠ .write := by simp [hd]
    exact { h.toRunning with
      pending := hp
      registers := .curveInfo hst rfl rfl rfl (fun _ => ⟨rfl, rfl⟩) fun hw => absurd hw hwrite }
  · obtain ⟨hrx, htx⟩ := h.curveInfo hst hc
    exact { h.toRunning with pending := hp, registers := .curveInfo hst rfl rfl rfl hrx htx }

theorem leads_armSetpoints_entry (h : Decided s) (hst : s.state = stSetpoints) (hc : s.changedMode = true) :
    (armSetpoints s).Leads Exchanging Session := by
  have hp : s.rxPendingValid = false :=
    h.not_pending (not_takesSetpoint_of_entry hc (by simp [hst, stSetpoints, stFinished]))
  obtain ⟨hd, e⟩ | ⟨hd, hcount, e⟩ | e := armSetpoints_entry_cases hc <;> rw [e]
  · have hread : s.dir ≠ .read := by simp [hd]
    exact { h.toRunning with
      pending := hp
      registers := .setpoints hst rfl rfl rfl (fun hr => absurd hr hread) fun _ => ⟨rfl, rfl⟩ }
  · have hwrite : s.dir ≠ .write := by simp [hd]
    exact { h.toRunning with
      described := fun hw => absurd hw hwrite
      pending := rfl
      registers := .setpoints hst rfl rfl rfl (fun _ => ⟨rfl, BitVec.eq_of_toNat_eq hcount⟩)
        fun hw => absurd hw hwrite }
  · exact session_failed _ _ { h.toRunning with }

theorem leads_armSetpoints_reentry (h : Decided s) (hst : s.state = stSetpoints) (hc : s.changedMode = false) :
    (armSetpoints s).Leads Exchanging Session := by
  obtain ⟨hrx, htx⟩ := h.setpoints hst hc
  obtain ⟨hd, e⟩ | ⟨-, hp, e⟩ | ⟨hd, -, e⟩ | e := armSetpoints_reentry_cases hc <;> rw [e]
  · have hp : s.rxPendingValid = false := h.not_pending fun htakes => nomatch hd.symm.trans htakes.1
    exact { h.toRunning with pending := hp, registers := .setpoints hst rfl rfl rfl hrx htx }
  · exact { h.toRunning with pending := hp, registers := .setpoints hst rfl rfl rfl hrx htx }
  · have hwrite : s.dir ≠ .write := by simp [hd]
    exact { h.toRunning with
      described := fun hw => absurd hw hwrite
      pending := rfl
      registers := .setpoints hst rfl rfl rfl hrx fun hw => absurd hw hwrite }
  · exact session_failed _ _ { h.toRunning with }

theorem leads_armFinished (h : Decided s) (hst : s.state = stFinished) :
    (armFinished s).Leads Exchanging Session := by
  obtain ⟨-, e⟩ | ⟨-, e⟩ | ⟨hd, e⟩ | ⟨-, e⟩ := armFinished_cases s <;> rw [e]
  · exact session_reportSuccess h.toRunning hst
  · exact session_reportSuccess { h.toRunning with } hst
  · have hwrite : s.dir ≠ .write := by simp [hd]
    exact session_reportSuccess { h.toRunning with described := fun hw => absurd hw hwrite } hst
  · exact session_failed _ _ h.toRunning

theorem leads_part4 (c : Cycle) (h : Decided s) : (part4 c s).Leads Exchanging Session := by
  unfold part4
  split_ifs with hinit hsend hcurve hset hfin
  · exact leads_armInit h hinit
  · exact leads_armSendcmd _ _ h hsend
  · exact leads_armCurveinfo h hcurve
  · cases hc : s.changedMode with
    | true => exact leads_armSetpoints_entry h hset hc
    | false => exact leads_armSetpoints_reentry h hset hc
  · exact leads_armFinished h hfin
  · exact session_failed _ _ h.toRunning

/-! ### Parts 5 to 7 -/

/-- The cursor, its flag and the log are no registers of the phase. -/
theorem exchanging_ofSend {l : List OutEvent} {p : Half} {u : Bool} (h : Exchanging s) :
    Exchanging { s with log := l, txPos := p, underflowFlag := u } :=
  have hregisters : PhaseRegisters { s with log := l, txPos := p, underflowFlag := u } := by
    cases h.registers with
    | init h1 h2 h3 h4 => exact .init h1 h2 h3 h4
    | sendCommand h1 h2 h3 h4 h5 => exact .sendCommand h1 h2 h3 h4 h5
    | curveInfo h1 h2 h3 h4 h5 h6 => exact .curveInfo h1 h2 h3 h4 h5 h6
    | setpoints h1 h2 h3 h4 h5 h6 => exact .setpoints h1 h2 h3 h4 h5 h6
  { h.toRunning with pending := h.pending, registers := hregisters }

theorem leads_part5 (c : Cycle) (h : Exchanging s) : (part5 c s).Leads Exchanging Session := by
  unfold part5
  split
  · obtain ⟨-, e⟩ | ⟨-, w, -, -, e⟩ | ⟨-, w, -, -, e⟩ | ⟨-, f, -, e⟩ := sendNext_cases c.valueWr s <;> rw [e]
    · exact exchanging_ofSend h
    · exact exchanging_ofSend h
    · trivial
    · trivial
  · exact h

/-- The four phases have a control word (43_step_sequencer R205). -/
theorem controlWord_ne_none (h : PhaseRegisters s) : controlWord s ≠ none := by
  cases h with
  | init hst => simp [controlWord, hst]
  | sendCommand hst | curveInfo hst | setpoints hst =>
    simp [controlWord, hst, stInit, stSendCommand, stCurveInfo, stSetpoints]

theorem leads_emitControl (ok : Bool) (h : Exchanging s) : (emitControl ok s).Leads Session Session := by
  obtain ⟨hnone, -⟩ | ⟨w, -, -, e⟩ | ⟨w, -, -, e⟩ := emitControl_cases ok s
  · exact absurd hnone (controlWord_ne_none h.registers)
  · rw [e]
    exact session_armWait
      (exchanging_ofSend (l := s.log ++ [.write .controlWord w]) (p := s.txPos) (u := s.underflowFlag) h)
  · rw [e]; trivial

/-! ### The step under the lock -/

theorem leads_stepParts (c : Cycle) (h : Session s) (hbusy : s.xferState = .busy) (hlock : s.lock = .stepped) :
    (stepParts c s).Leads Session Session :=
  leads_andThen (leads_regReads (P := fun u => u = clearChanged s) rfl) fun _ hu =>
  leads_andThen (hu ▸ leads_part2 c.status (s := clearChanged s) { h with } hbusy hlock rfl) fun _ h =>
  leads_andThen (leads_receive c.value h) fun _ h =>
  leads_andThen (leads_part4 c h) fun _ h =>
  leads_andThen (leads_part5 c h) fun _ h => leads_emitControl c.controlWr h

/-- A step is due only in a busy engine (47_cycle_scheduler R285). -/
theorem session_setLock {l : Lock} (h : Session s) (hl : l = .waiting ∨ l = .held → s.xferState = .busy) :
    Session (setLock l s) := { h with due := hl }

theorem session_giveBack (h : Session s) : Session (giveBack s) := by
  obtain ⟨-, e⟩ | ⟨-, e⟩ := giveBack_cases s <;> rw [e]
  · exact session_setLock h nofun
  · exact h

theorem session_askLock (granted : Bool) (h : Session s) : Session (askLock granted s) := by
  obtain ⟨-, hbusy, -, e⟩ | ⟨-, e⟩ := askLock_cases granted s <;> rw [e]
  · exact session_setLock h fun _ => hbusy
  · exact h

/-- An outcome keeps the invariant of a session: a next state meets it. -/
def NextSession (x : Host.Outcome State Fault Refusal) : Prop := ∀ t, x = .next t → Session t

theorem nextSession_next (h : Session s) : NextSession (.next s)
  | _, rfl => h

theorem nextSession_fault (e : Fault) : NextSession (.fault e) := by
  intro t ht
  cases ht

theorem nextSession_refused (r : Refusal) : NextSession (.refused r) := by
  intro t ht
  cases ht

theorem nextSession_runStep (c : Cycle) (h : Session s) (hbusy : s.xferState = .busy) : NextSession (runStep c s) := by
  intro t ht
  have hstepped : Session (setLock .stepped s) := session_setLock h nofun
  obtain hsession | ⟨l, rfl⟩ := settle_next_of_leads (leads_stepParts c hstepped hbusy rfl) ht
  · exact hsession
  · exact { hstepped with }

theorem nextSession_stepOnce (c : Cycle) (h : Session s) : NextSession (stepOnce c s) := by
  obtain ⟨hbusy, -, e⟩ | ⟨-, e⟩ := stepOnce_cases c s <;> rw [e]
  · exact nextSession_runStep c h hbusy
  · exact nextSession_next h

theorem nextSession_afterStep {f : State → State} {x : Host.Outcome State Fault Refusal}
    (hf : ∀ u, Session u → Session (f u)) (hx : NextSession x) : NextSession (afterStep f x) := by
  cases x with
  | next u => exact nextSession_next (hf u (hx u rfl))
  | fault e => exact nextSession_fault e
  | refused r => exact nextSession_refused r

theorem nextSession_execTick (c : Cycle) (granted : Bool) (h : Session s) : NextSession (execTick c granted s) := by
  obtain ⟨-, e⟩ | ⟨hbusy, -, -, e⟩ | ⟨hbusy, -, -, e⟩ | ⟨-, -, e⟩ := execTick_cases c granted s <;> rw [e]
  · exact nextSession_next h
  · exact nextSession_afterStep (fun _ => session_giveBack)
      (nextSession_runStep c (session_setLock h fun _ => hbusy) hbusy)
  · exact nextSession_next (session_setLock h fun _ => hbusy)
  · exact nextSession_refused _

/-! ### The host's operations -/

theorem session_answering (a : Answer) (h : Session s) : Session (answering a s) := { h with }
theorem session_withScript (bs : List Byte) (h : Session s) : Session { s with script := bs } := { h with }
theorem session_withHost (f : HostFields) (h : Session s) : Session { s with host := f } := { h with }
theorem session_withSp (m : Memory) (h : Session s) : Session { s with sp := m } := { h with }
theorem session_withProfile (ps : List Real64) (n : Nat) (h : Session s) :
    Session { s with profile := ps, profileCount := n } := { h with }

theorem session_withDesc (m : Memory) (h : Session s) (hopen : s.xferState ≠ .busy) : Session { s with desc := m } :=
  { h with described := fun hb => absurd hb hopen }

theorem session_withCount (n : Half) (h : Session s) (hopen : s.xferState ≠ .busy) : Session { s with spCount := n } :=
  { h with described := fun hb => absurd hb hopen, setpoints := fun hb => absurd hb hopen }

theorem notBusy_of_hostOpen (h : hostOpen s = true) : s.xferState ≠ .busy := of_decide_eq_true h

theorem nextSession_next_ite {p : Prop} [Decidable p] {t : State} (h : Session s) (ht : p → Session t) :
    NextSession (.next (if p then t else s)) := by
  split
  · exact nextSession_next (ht ‹p›)
  · exact nextSession_next h

theorem nextSession_execSetName (t : Option (List Byte)) (h : Session s) : NextSession (execSetName t s) := by
  unfold execSetName
  split
  · exact nextSession_next (session_answering _ h)
  · split_ifs
    · exact nextSession_next (session_answering _ h)
    · exact nextSession_next (session_answering _ (session_withHost _ h))
    · exact nextSession_next (session_answering _ h)

theorem nextSession_execXlenEncode (n : BitVec 64) (dt : Real64) (h : Session s) :
    NextSession (execXlenEncode n dt s) := by
  unfold execXlenEncode
  dsimp only
  split_ifs
  · exact nextSession_next (session_answering _ h)
  · exact nextSession_next (session_answering _ h)
  · exact nextSession_refused _
  · exact nextSession_refused _

theorem nextSession_hostSetpoint (k : Nat) (w : Word) (h : Session s) : NextSession (hostSetpoint k w s) := by
  unfold hostSetpoint
  split_ifs
  · exact nextSession_next (session_withSp _ h)
  · exact nextSession_fault _
  · exact nextSession_next h

theorem nextSession_execPosEncode (k : Half) (p : Real64) (h : Session s) : NextSession (execPosEncode k p s) := by
  unfold execPosEncode
  dsimp only
  split_ifs
  · exact nextSession_hostSetpoint _ _ h
  · exact nextSession_refused _
  · exact nextSession_refused _

theorem nextSession_execProject (a : ProjectArgs) (h : Session s) : NextSession (execProject a s) := by
  unfold execProject
  split_ifs
  · exact nextSession_fault _
  · exact nextSession_next (session_withProfile _ _ h)
  · exact nextSession_next h

/-! ### The requests, and RESET -/

/-- A new session is in `Init` and waits for nothing (42_requests R178). -/
theorem session_startSession (hid : 1 ≤ s.curveId.toNat ∧ s.curveId.toNat ≤ s.params.maxCurveId)
    (hdesc : s.dir = .write →
      rd16 s.desc 4 = s.spCount ∧ rd16 s.desc 30 = s.curveId ∧ 1 ≤ s.spCount.toNat) : Session (startSession s) where
  idle := nofun
  busy _ := ⟨Nat.zero_le _, rfl, rfl, rfl⟩
  done := nofun
  curveId _ := hid
  waits _ hst := absurd rfl hst
  codesInit _ _ := nofun
  codesSend _ := nofun
  codesCurve _ := nofun
  codesSet _ := nofun
  response _ := ⟨nofun, fun ⟨_, hst⟩ => hst.elim nofun nofun⟩
  pending _ := rfl
  looks _ := Nat.zero_le _
  counter := Nat.zero_le _
  curveInfo _ := nofun
  setpoints _ := nofun
  due _ := rfl
  described _ := hdesc

/-- The record of an accepted write request describes the curve (40_descriptor_codec R143). -/
theorem described_loadWrite (id count : Half) (hform : Memory.wf s.desc = true) :
    rd16 (loadWrite id count s).desc 4 = count ∧ rd16 (loadWrite id count s).desc 30 = id := by
  obtain ⟨hrecord, -⟩ := writeBytes_record hform (requestFields id count s) 0 0
  rw [loadWrite_desc, packed]
  exact ⟨hrecord.numSetpoints, hrecord.curveId⟩

theorem nextSession_execReqWrite (id count : Half) (xlenOk : Bool) (h : Session s) (hform : Memory.wf s.desc = true) :
    NextSession (execReqWrite id count xlenOk s) := by
  unfold execReqWrite
  dsimp only
  split_ifs with haccepted
  · obtain ⟨-, hlow, hhigh, hcount, -, -⟩ := checkRequest_write_accepted_iff.1 haccepted
    obtain ⟨hnumber, hid⟩ := described_loadWrite id count hform
    have hpos : 1 ≤ count.toNat := Nat.one_le_iff_ne_zero.2 fun h0 => hcount (BitVec.eq_of_toNat_eq h0)
    exact nextSession_next (session_answering _
      (session_startSession ⟨hlow, hhigh⟩ fun _ => ⟨hnumber, hid, hpos⟩))
  · exact nextSession_next (session_answering _ h)

theorem nextSession_execReqRead (id : Half) (h : Session s) : NextSession (execReqRead id s) := by
  unfold execReqRead
  dsimp only
  split_ifs with haccepted
  · obtain ⟨-, hid⟩ := checkRequest_read_accepted_iff.1 haccepted
    rw [IdInvalid, not_or, Nat.not_lt, Nat.not_lt] at hid
    exact nextSession_next (session_answering _ (session_startSession hid nofun))
  · exact nextSession_next (session_answering _ h)

theorem nextSession_rejectIf (reason : ReqStatus) (r : Request) (h : Session s) :
    NextSession (.next (rejectIf reason r s)) :=
  nextSession_next_ite h fun _ => session_answering _ h

theorem session_resetRegisters (s : State) : Session (resetRegisters s) :=
  session_of_not_busy nofun (fun _ => ⟨rfl, rfl, rfl, rfl⟩) nofun (Nat.zero_le _) (fun hl => hl.elim nofun nofun)

/-! ### The events of the surroundings -/

/-- Every operation the surroundings can cause keeps the invariant of a session; the others are no such operation. -/
theorem nextSession_exec (h : Session s) (hkept : Kept s) : (i : Instr) → outside i = true → NextSession (exec i s)
  | .record _ _ _, _ => nextSession_next_ite h fun hopen => session_withDesc _ h (notBusy_of_hostOpen hopen)
  | .unpack, _ => nextSession_next (session_answering _ h)
  | .setName t, _ => nextSession_execSetName t h
  | .blocksize _, _ => nextSession_next (session_answering _ h)
  | .dump, _ => nextSession_next (session_answering _ h)
  | .xlenEncode n dt, _ => nextSession_execXlenEncode n dt h
  | .xlenDecode _ _, _ => nextSession_next (session_answering _ h)
  | .posEncode k p, _ => nextSession_execPosEncode k p h
  | .posDecode _, _ => nextSession_next (session_answering _ h)
  | .project a, _ => nextSession_execProject a h
  | .reqWrite id count xlenOk, _ => nextSession_execReqWrite id count xlenOk h hkept.descForm
  | .reqRead id, _ => nextSession_execReqRead id h
  | .rejBusy r, _ => nextSession_rejectIf _ r h
  | .rejInvalidId r, _ => nextSession_rejectIf _ r h
  | .rejInvalidDuration r, _ => nextSession_rejectIf _ r h
  | .rejInvalidCount r, _ => nextSession_rejectIf _ r h
  | .sinkRead, _ => nextSession_next (session_answering _ h)
  | .step c, _ => nextSession_stepOnce c h
  | .classify _, _ => nextSession_next (session_answering _ h)
  | .tick c granted, _ => nextSession_execTick c granted h
  | .tickIdle, _ => nextSession_next h
  | .lockAcq granted, _ => nextSession_next (session_askLock granted h)
  | .lockRel, _ => nextSession_next (session_giveBack h)
  | .reset, _ => nextSession_next (session_resetRegisters s)

theorem nextSession_execHostWrite (h : Session s) : (w : HostWrite) → NextSession (execHostWrite w s)
  | .setpoint k v => nextSession_hostSetpoint k.toNat v h
  | .setpointCount _ =>
    nextSession_next_ite h fun ⟨hopen, _⟩ => session_withCount _ h (notBusy_of_hostOpen hopen)
  | .objectType _ => nextSession_next_ite h fun _ => session_withHost _ h
  | .nameRaw _ => nextSession_next_ite h fun _ => session_withHost _ h
  | .xLength _ => nextSession_next_ite h fun _ => session_withHost _ h
  | .xDimUuid _ => nextSession_next_ite h fun _ => session_withHost _ h
  | .yDimUuid _ => nextSession_next_ite h fun _ => session_withHost _ h
  | .wizardType _ => nextSession_next_ite h fun _ => session_withHost _ h
  | .wizardParam _ _ => nextSession_next_ite h fun _ => session_withHost _ h

theorem nextSession_execHostRead (r : HostRead) (h : Session s) : NextSession (execHostRead r s) := by
  cases r with
  | descWord k => exact nextSession_next (session_answering _ h)
  | setpoint k =>
    simp only [execHostRead]
    split
    · exact nextSession_next (session_answering _ h)
    · exact nextSession_fault _
  | dataRegs => exact nextSession_next (session_answering _ h)

/-- The operation at the front of the script is one of the surroundings. -/
theorem outside_of_nextOutside {i : Instr} {rest : List Byte} (h : decodeEvent s.script = .ok (.instr i, rest))
    (hout : nextOutside s = true) : outside i = true := by
  simpa only [nextOutside, fetch, if_neg (script_ne_nil h), h] using hout

end

/-- Settles O53: the event at the front of the script is an operation of the surroundings (`nextSession_exec`), a host
write or a host read. -/
theorem outsideEventsKeepTheSession : Obligations.OutsideEventsKeepTheSession := by
  intro s t hkept hsession hout hstep
  suffices h : NextSession (step s) from h t hstep
  obtain ⟨-, e⟩ | ⟨i, rest, hi, e⟩ | ⟨w, rest, -, e⟩ | ⟨r, rest, -, e⟩ | ⟨r, -, e⟩ := step_cases s <;> rw [e]
  · exact nextSession_next hsession
  · exact nextSession_exec (session_withScript rest hsession) (kept_withScript rest hkept) i
      (outside_of_nextOutside hi hout)
  · exact nextSession_execHostWrite (session_withScript rest hsession) w
  · exact nextSession_execHostRead r (session_withScript rest hsession)
  · exact nextSession_refused _

end Sys2Proof.Machine
end

section
/-! The register `state` over one step (43_step_sequencer R215, 60_exceptions R320): part 2 alone advances it, and only
a failure leads elsewhere. -/

namespace Sys2Proof.Machine

/-- The session has failed. -/
def SessionFails (s : State) : Prop := s.state = stFailed ∧ s.xferState = .done ∧ s.result = .failure

/-- What part 2 makes of `state`: it stays, or it advances on the advance code while the device has looks left. -/
def Moved (c : Cycle) (s : State) (v : BitVec 3) : Prop :=
  v = s.state ∨
  (v = succState s.state ∧ s.waitingForStatus = true ∧ c.status = s.nextModeStatus ∧
    (s.timeoutCtr + 1).toNat ≤ s.params.timeoutCycles ∧ readsOk c)

/-- The part leaves `state`, unless it fails the session. -/
def Flow.KeepsPhase (s : State) (x : Flow) : Prop :=
  x.Leads (fun u => u.state = s.state) fun u => u.state = s.state ∨ SessionFails u

section
variable {s u : State}

theorem sessionFails_failed (k : Cause) (code : Byte) (s : State) : SessionFails (failed k code s) := ⟨rfl, rfl, rfl⟩

theorem classOf_adv {next expected sw : Word} (h : classOf next expected sw = .adv) : sw = next := by
  unfold classOf at h
  split_ifs at h with heq
  exact heq

/-! ### The parts -/

theorem keepsPhase_receive (v : Word) : (receive v s).KeepsPhase s := by
  obtain ⟨-, e⟩ | ⟨-, -, -, e⟩ | ⟨-, -, -, -, e⟩ | ⟨-, -, -, -, e⟩ | ⟨-, -, e⟩ := receive_cases v s <;> rw [e]
  · exact rfl
  · exact .inr (sessionFails_failed _ _ _)
  · exact rfl
  · trivial
  · exact rfl

theorem keepsPhase_armInit : (armInit s).KeepsPhase s := by
  cases hd : s.dir with
  | write => rw [armInit_of_write hd]; exact rfl
  | read => rw [armInit_of_read hd]; exact rfl

theorem keepsPhase_armSendcmd (indexOk valueOk : Bool) : (armSendcmd indexOk valueOk s).KeepsPhase s := by
  cases indexOk with
  | false => trivial
  | true =>
    cases valueOk with
    | false => trivial
    | true => rw [armSendcmd_true_true]; exact rfl

theorem keepsPhase_armCurveinfo : (armCurveinfo s).KeepsPhase s := by
  obtain ⟨-, -, e⟩ | ⟨-, -, e⟩ | ⟨-, e⟩ := armCurveinfo_cases s <;> rw [e] <;> exact rfl

theorem keepsPhase_armSetpoints : (armSetpoints s).KeepsPhase s := by
  cases hc : s.changedMode with
  | true =>
    obtain ⟨-, e⟩ | ⟨-, -, e⟩ | e := armSetpoints_entry_cases hc <;> rw [e]
    · exact rfl
    · exact rfl
    · exact .inr (sessionFails_failed _ _ _)
  | false =>
    obtain ⟨-, e⟩ | ⟨-, -, e⟩ | ⟨-, -, e⟩ | e := armSetpoints_reentry_cases hc <;> rw [e]
    · exact rfl
    · exact rfl
    · exact rfl
    · exact .inr (sessionFails_failed _ _ _)

theorem keepsPhase_armFinished : (armFinished s).KeepsPhase s := by
  obtain ⟨-, e⟩ | ⟨-, e⟩ | ⟨-, e⟩ | ⟨-, e⟩ := armFinished_cases s <;> rw [e]
  · exact .inl rfl
  · exact .inl rfl
  · exact .inl rfl
  · exact .inr (sessionFails_failed _ _ _)

theorem keepsPhase_part4 (c : Cycle) : (part4 c s).KeepsPhase s := by
  unfold part4
  split_ifs
  · exact keepsPhase_armInit
  · exact keepsPhase_armSendcmd _ _
  · exact keepsPhase_armCurveinfo
  · exact keepsPhase_armSetpoints
  · exact keepsPhase_armFinished
  · exact .inr (sessionFails_failed _ _ _)

theorem keepsPhase_part5 (c : Cycle) : (part5 c s).KeepsPhase s := by
  unfold part5
  split
  · obtain ⟨-, e⟩ | ⟨-, w, -, -, e⟩ | ⟨-, w, -, -, e⟩ | ⟨-, f, -, e⟩ := sendNext_cases c.valueWr s <;> rw [e]
    · exact rfl
    · exact rfl
    · trivial
    · trivial
  · exact rfl

theorem keepsPhase_emitControl (ok : Bool) : (emitControl ok s).KeepsPhase s := by
  obtain ⟨-, e⟩ | ⟨w, -, -, e⟩ | ⟨w, -, -, e⟩ := emitControl_cases ok s <;> rw [e]
  · exact rfl
  · exact rfl
  · trivial

/-! ### The step -/

/-- Where the step stands after a part: `state` as part 2 made it, or the session failed. -/
def StepMoves (c : Cycle) (s u : State) : Prop := Moved c s u.state ∨ SessionFails u

variable {c : Cycle}

theorem leads_part2_moved (hreads : readsOk c) :
    (part2 c.status s).Leads (fun u => Moved c s u.state) (StepMoves c s) := by
  obtain ⟨-, e⟩ | ⟨-, -, e⟩ | ⟨hwait, hlooks, e⟩ := part2_cases c.status s <;> rw [e]
  · exact .inl rfl
  · exact .inr (sessionFails_failed _ _ _)
  · obtain ⟨hadv, e⟩ | ⟨-, e⟩ | ⟨-, e⟩ | ⟨-, e⟩ :=
      actOnStatus_cases c.status { s with timeoutCtr := s.timeoutCtr + 1 } <;> rw [e]
    · exact .inr ⟨rfl, hwait, classOf_adv hadv, hlooks, hreads⟩
    · exact .inl rfl
    · exact .inr (sessionFails_failed _ _ _)
    · exact .inl (.inl rfl)

/-- The parts after part 2 leave `state` where part 2 put it, or fail the session. -/
theorem leads_of_keepsPhase {x : Flow} (hu : Moved c s u.state) (hx : x.KeepsPhase u) :
    x.Leads (fun u => Moved c s u.state) (StepMoves c s) :=
  leads_mono (P := fun v => v.state = u.state) (E := fun v => v.state = u.state ∨ SessionFails v) hx
    (fun _ hv => hv ▸ hu) fun v hv => hv.imp_left fun (hstate : v.state = u.state) => hstate ▸ hu

theorem leads_stepParts_moved : (stepParts c s).Leads (fun u => Moved c s u.state) (StepMoves c s) := by
  have hreads : (regReads c (clearChanged s)).Leads (fun u => u = clearChanged s ∧ readsOk c) (StepMoves c s) := by
    obtain ⟨hstatus, hvalue, e⟩ | ⟨-, e⟩ := regReads_cases c (clearChanged s) <;> rw [e]
    · exact ⟨rfl, hstatus, hvalue⟩
    · trivial
  exact leads_andThen hreads fun _ hu =>
    leads_andThen (hu.1 ▸ leads_part2_moved (s := clearChanged s) hu.2) fun _ hu =>
    leads_andThen (leads_of_keepsPhase hu (keepsPhase_receive _)) fun _ hu =>
    leads_andThen (leads_of_keepsPhase hu (keepsPhase_part4 c)) fun _ hu =>
    leads_andThen (leads_of_keepsPhase hu (keepsPhase_part5 c)) fun _ hu =>
    leads_of_keepsPhase hu (keepsPhase_emitControl _)

theorem stepMoves_runStep {t : State} (h : runStep c s = .next t) : StepMoves c s t := by
  have hleads : (stepParts c (setLock .stepped s)).Leads (StepMoves c s) (StepMoves c s) :=
    leads_mono (leads_stepParts_moved (s := setLock .stepped s)) (fun _ => .inl) fun _ => id
  obtain hmoves | ⟨l, rfl⟩ := settle_next_of_leads hleads h
  · exact hmoves
  · exact .inl (.inl rfl)

theorem stepMoves_giveBack {t : State} (h : StepMoves c s t) : StepMoves c s (giveBack t) := by
  obtain ⟨-, e⟩ | ⟨-, e⟩ := giveBack_cases t <;> rw [e]
  · exact h
  · exact h

theorem stepMoves_stepOnce {t : State} (h : stepOnce c s = .next t) : StepMoves c s t := by
  obtain ⟨-, -, e⟩ | ⟨-, e⟩ := stepOnce_cases c s <;> rw [e] at h
  · exact stepMoves_runStep h
  · exact Host.Outcome.next.inj h ▸ .inl (.inl rfl)

theorem stepMoves_execTick {t : State} {granted : Bool} (h : execTick c granted s = .next t) : StepMoves c s t := by
  obtain ⟨-, e⟩ | ⟨-, -, -, e⟩ | ⟨-, -, -, e⟩ | ⟨-, -, e⟩ := execTick_cases c granted s <;> rw [e] at h
  · exact Host.Outcome.next.inj h ▸ .inl (.inl rfl)
  · cases hrun : runStep c (setLock .held s) with
    | next u =>
      rw [hrun, afterStep_next] at h
      exact Host.Outcome.next.inj h ▸ stepMoves_giveBack (stepMoves_runStep hrun)
    | fault e => rw [hrun] at h; cases h
    | refused r => rw [hrun] at h; cases h
  · exact Host.Outcome.next.inj h ▸ .inl (.inl rfl)
  · cases h

end

/-- Settles O46: STEP and TICK, each by `leads_stepParts_moved`. -/
theorem stepMovesStateAsTheTable : Obligations.StepMovesStateAsTheTable := by
  intro s t c i hi _ hexec
  have hmoves : StepMoves c s t := by
    obtain rfl | ⟨granted, rfl⟩ := hi
    · exact stepMoves_stepOnce hexec
    · exact stepMoves_execTick hexec
  obtain (hsame | hadv) | hfail := hmoves
  · exact .inl hsame
  · exact .inr (.inl hadv)
  · exact .inr (.inr hfail)

end Sys2Proof.Machine
end

section
/-! One exchange (43_step_sequencer R196): what a step does, register by register, where every access succeeds. An
exchange is what is left of a step after part 2; it is given for each phase and each direction. -/

namespace Sys2Proof.Machine

/-- Parts 3 to 7 of a step. -/
def afterStatus (c : Cycle) (s : State) : Flow :=
  (receive c.value s).andThen fun s => (part4 c s).andThen (sendAndControl c)

/-- After part 2 of a step whose status word holds the phase. -/
def reentering (s : State) : State :=
  { s with lock := .stepped, changedMode := false, timeoutCtr := s.timeoutCtr + 1 }

/-- After part 2 of a step whose status word advances the phase. -/
def entering (s : State) : State :=
  { s with
    state := succState s.state, lock := .stepped, changedMode := true, timeoutCtr := s.timeoutCtr + 1 }

/-- The end of a granted tick whose step came out as `x`: committed or rolled back, and the lock given back. -/
def endTick (s : State) (x : Flow) : Host.Outcome State Fault Refusal :=
  afterStep giveBack (settle (setLock .stepped s) x)

/-- A busy engine, its lock free, waits for an answer and has looks left. -/
structure Awaiting (s : State) : Prop where
  busy : s.xferState = .busy
  lock : s.lock = .free
  waits : s.waitingForStatus = true
  looks : s.timeoutCtr.toNat < s.params.timeoutCycles

/-- A data phase with the constants of its codes and its number in the control word (30_encoding R101, R105). -/
inductive DataPhase : BitVec 3 → Word → Word → Nat → Prop
  | curveInfo : DataPhase stCurveInfo 0x02 0x402 1
  | setpoints : DataPhase stSetpoints 0x04 0x404 2

section
variable {s t : State} {c : Cycle} {st : BitVec 3} {a b v w : Word} {k : Nat}

/-! ### The tick around the seven parts -/

theorem exec_tick_of_free (hbusy : s.xferState = .busy) (hlock : s.lock = .free) :
    exec (.tick c true) s = endTick s (stepParts c (setLock .stepped s)) := by
  obtain ⟨hidle, -⟩ | ⟨-, -, -, e⟩ | ⟨-, -, hgranted, -⟩ | ⟨-, hnot, -⟩ := execTick_cases c true s
  · exact absurd hbusy hidle
  · exact e
  · cases hgranted
  · exact absurd hlock hnot

theorem exec_step_of_held (hbusy : s.xferState = .busy) (hlock : s.lock = .held) :
    exec (.step c) s = settle (setLock .stepped s) (stepParts c (setLock .stepped s)) :=
  if_pos ⟨hbusy, hlock⟩

theorem endTick_go (hlock : t.lock = .stepped) : endTick s (.go t) = .next (setLock .free t) := by
  rw [endTick, settle_go, afterStep_next, giveBack, if_pos hlock]

theorem endTick_ended (hlock : t.lock = .stepped) : endTick s (.ended t) = .next (setLock .free t) := by
  rw [endTick, settle_ended, afterStep_next, giveBack, if_pos hlock]

theorem regReads_of_ok (h : readsOk c) : regReads c s = .go s := by
  simp [regReads, h.1, h.2]

theorem part2_of_looks (hwait : s.waitingForStatus = true) (hlooks : s.timeoutCtr.toNat < s.params.timeoutCycles) :
    part2 w s = actOnStatus w { s with timeoutCtr := s.timeoutCtr + 1 } := by
  obtain ⟨hidle, -⟩ | ⟨-, hover, -⟩ | ⟨-, -, e⟩ := part2_cases w s
  · simp [hwait] at hidle
  · exact absurd (toNat_succ_le hlooks) (Nat.not_le.2 hover)
  · exact e

theorem actOnStatus_of_adv (hsw : w = s.nextModeStatus) : actOnStatus w s = .go (advance s) := by
  simp [actOnStatus, classify, classOf, hsw]

theorem actOnStatus_of_steady (hsw : w = s.expectedStatus) (hne : s.expectedStatus ≠ s.nextModeStatus) :
    actOnStatus w s = .go s := by
  simp [actOnStatus, classify, classOf, hsw, hne]

/-- Parts 1 and 2 of a waiting engine with looks left come down to the status word. -/
theorem exec_tick_of_awaiting (h : Awaiting s) (hreads : readsOk c)
    (hact : actOnStatus c.status (reentering s) = .go t) :
    exec (.tick c true) s = endTick s (afterStatus c t) := by
  have hpart2 : part2 c.status (clearChanged (setLock .stepped s)) = .go t :=
    (part2_of_looks (s := clearChanged (setLock .stepped s)) h.waits h.looks).trans hact
  rw [exec_tick_of_free h.busy h.lock, stepParts, regReads_of_ok hreads, andThen_go, hpart2]
  rfl

/-- After the steady code the rest of the step runs in the same phase. -/
theorem exec_tick_of_steady (h : Awaiting s) (hreads : readsOk c) (hsw : c.status = s.expectedStatus)
    (hne : s.expectedStatus ≠ s.nextModeStatus) :
    exec (.tick c true) s = endTick s (afterStatus c (reentering s)) :=
  exec_tick_of_awaiting h hreads (actOnStatus_of_steady hsw hne)

/-- After the advance code the rest of the step runs in the next phase. -/
theorem exec_tick_of_adv (h : Awaiting s) (hreads : readsOk c) (hsw : c.status = s.nextModeStatus) :
    exec (.tick c true) s = endTick s (afterStatus c (entering s)) :=
  exec_tick_of_awaiting h hreads (actOnStatus_of_adv hsw)

/-! ### Part 3 without a response, part 4 by its arm -/

theorem receive_of_noResponse (hb : s.bufferResponse = false) : receive v s = .go s := by simp [receive, hb]

theorem afterStatus_of_noResponse (hb : s.bufferResponse = false) :
    afterStatus c s = (part4 c s).andThen (sendAndControl c) := by
  rw [afterStatus, receive_of_noResponse hb, andThen_go]

theorem part4_of_init (hst : s.state = stInit) : part4 c s = armInit s := if_pos hst

theorem part4_of_sendCommand (hst : s.state = stSendCommand) : part4 c s = armSendcmd c.indexWr c.valueWr s := by
  rw [part4, if_neg (by simp [hst, stSendCommand, stInit]), if_pos hst]

theorem part4_of_curveInfo (hst : s.state = stCurveInfo) : part4 c s = armCurveinfo s := by
  simp [part4, hst, stInit, stSendCommand, stCurveInfo]

theorem part4_of_setpoints (hst : s.state = stSetpoints) : part4 c s = armSetpoints s := by
  simp [part4, hst, stInit, stSendCommand, stCurveInfo, stSetpoints]

theorem part4_of_finished (hst : s.state = stFinished) : part4 c s = armFinished s := by
  simp [part4, hst, stInit, stSendCommand, stCurveInfo, stSetpoints, stFinished]

/-! ### Parts 5 to 7 -/

theorem emitControl_of_controlWord (hw : controlWord s = some w) :
    emitControl true s = .go { s with
      log := s.log ++ [.write .controlWord w], waitingForStatus := true, timeoutCtr := 0 } := by
  simp [emitControl, hw, emit, armWait]

/-- Where part 5 sends nothing, a control word alone goes out. -/
theorem sendAndControl_of_noSend (hsend : ¬ (s.dir = .write ∧ (s.state = stCurveInfo ∨ s.state = stSetpoints)))
    (hc : c.controlWr = true) (hw : controlWord s = some w) :
    sendAndControl c s = .go { s with
      log := s.log ++ [.write .controlWord w], waitingForStatus := true, timeoutCtr := 0 } := by
  rw [sendAndControl, part5, if_neg hsend, andThen_go, hc, emitControl_of_controlWord hw]

/-- In the data phases of a write session the word under the cursor goes out before the control word (R204). -/
theorem sendAndControl_of_send (hd : s.dir = .write) (hst : s.state = stCurveInfo ∨ s.state = stSetpoints)
    (hlen : s.txPos.toNat < s.txLen.toNat) (hv : cursorWord s = .ok v) (hvalue : c.valueWr = true)
    (hc : c.controlWr = true) (hw : controlWord s = some w) :
    sendAndControl c s = .go { s with
      log := s.log ++ [.write .valueOut v, .write .controlWord w], txPos := s.txPos + 1, waitingForStatus := true,
      timeoutCtr := 0 } := by
  have hw' : controlWord { s with log := s.log ++ [.write .valueOut v], txPos := s.txPos + 1 } = some w := hw
  rw [sendAndControl, part5, if_pos ⟨hd, hst⟩, hvalue, sendNext_true hlen hv, andThen_go, hc,
    emitControl_of_controlWord hw']
  simp

/-- The control word of the phases that have a number (R205). -/
theorem controlWord_of_number (hk : k < 3) (hst : s.state.toNat = k + 1) :
    controlWord s = some (BitVec.ofNat 32 ((baseMode s + k) * 256 + 2 * k + s.toggle.toNat)) := by
  have hinit : s.state ≠ stInit := by simp only [stInit]; bv_omega
  have hsends : s.state = stSendCommand ∨ s.state = stCurveInfo ∨ s.state = stSetpoints := by
    simp only [stSendCommand, stCurveInfo, stSetpoints]; bv_omega
  simp only [controlWord, if_neg hinit, if_pos hsends, hst, Nat.add_sub_cancel, controlFields_eq (Nat.lt_succ_of_lt hk)]

theorem DataPhase.controlWord (h : DataPhase st a b k) (hst : s.state = st) :
    controlWord s = some (BitVec.ofNat 32 ((baseMode s + k) * 256 + 2 * k + s.toggle.toNat)) := by
  cases h <;> exact controlWord_of_number (by decide) (by rw [hst]; rfl)

theorem DataPhase.state (h : DataPhase st a b k) (hst : s.state = st) :
    s.state = stCurveInfo ∨ s.state = stSetpoints := by
  cases h
  · exact .inl hst
  · exact .inr hst

theorem DataPhase.steady_ne_adv (h : DataPhase st a b k) (u : Bool) : b + bit 32 u ≠ a + bit 32 u := by
  cases h <;> cases u <;> decide

/-! ### The first step of a session (R206) -/

/-- The pulse of STEP.INIT. -/
def deletion (s : State) : List OutEvent := if s.dir = .write then [.deleteCurveReq s.curveId] else []

theorem armInit_eq (s : State) : armInit s = .go { s with
    log := s.log ++ deletion s, nextModeStatus := 0x0F, expectedStatus := 0x0F } := by
  unfold armInit deletion
  split
  · rfl
  · rw [List.append_nil]; rfl

/-- The registers after the first step. -/
def asked (s : State) : State :=
  { s with
    log := s.log ++ deletion s ++ [.write .controlWord s.params.initControlWord]
    changedMode := false
    nextModeStatus := 0x0F
    expectedStatus := 0x0F
    waitingForStatus := true
    timeoutCtr := 0 }

theorem stepParts_first (hst : s.state = stInit) (hwait : s.waitingForStatus = false)
    (hb : s.bufferResponse = false) (hreads : readsOk c) (hc : c.controlWr = true) :
    stepParts c s = .go (asked s) := by
  have hpart2 : part2 c.status (clearChanged s) = .go (clearChanged s) := by simp [part2, hwait]
  have hnext : stepParts c s = afterStatus c (clearChanged s) := by
    rw [stepParts, regReads_of_ok hreads, andThen_go, hpart2]; rfl
  rw [hnext, afterStatus_of_noResponse (s := clearChanged s) hb, part4_of_init (s := clearChanged s) hst, armInit_eq,
    andThen_go]
  exact sendAndControl_of_noSend (by simp [hst, stInit, stCurveInfo, stSetpoints]) hc (controlWord_of_init hst)

theorem exec_tick_first (hbusy : s.xferState = .busy) (hlock : s.lock = .free) (hst : s.state = stInit)
    (hwait : s.waitingForStatus = false) (hb : s.bufferResponse = false) (hreads : readsOk c)
    (hc : c.controlWr = true) : exec (.tick c true) s = .next (asked s) := by
  rw [exec_tick_of_free hbusy hlock, stepParts_first (s := setLock .stepped s) hst hwait hb hreads hc,
    endTick_go rfl, asked, asked, ← hlock]
  rfl

theorem exec_step_first (hbusy : s.xferState = .busy) (hlock : s.lock = .held) (hst : s.state = stInit)
    (hwait : s.waitingForStatus = false) (hb : s.bufferResponse = false) (hreads : readsOk c)
    (hc : c.controlWr = true) : exec (.step c) s = .next { asked s with lock := .stepped } := by
  rw [exec_step_of_held hbusy hlock, stepParts_first (s := setLock .stepped s) hst hwait hb hreads hc]
  rfl

end

/-- Settles O42: `stepParts_first`, under the tick and under the lock. -/
theorem firstStepOfASession : Obligations.FirstStepOfASession := by
  intro s c hbusy hst hwait hb hstatus hvalue hc
  refine ⟨asked s, ?_, fun hlock => exec_tick_first hbusy hlock hst hwait hb ⟨hstatus, hvalue⟩ hc,
    fun hlock => exec_step_first hbusy hlock hst hwait hb ⟨hstatus, hvalue⟩ hc⟩
  cases hd : s.dir with
  | write => simp only [asked, deletion, hd, if_true]
  | read => simp [asked, deletion, hd]

/-! ### The data phases (R208, R210) -/

section
variable {s t : State} {st : BitVec 3} {a b v w : Word} {k : Nat}

theorem DataPhase.part4_reentry_write (h : DataPhase st a b k) (c : Cycle) (hst : s.state = st)
    (hc : s.changedMode = false) (hd : s.dir = .write) : part4 c s = .go (dataCodes a b (flipToggle s)) := by
  cases h with
  | curveInfo => rw [part4_of_curveInfo hst, armCurveinfo_of_reentry hc]
  | setpoints => rw [part4_of_setpoints hst, armSetpoints_of_reentry_write hc hd]

/-- A steady answer in a write session: the word under the cursor goes out. -/
theorem exec_tick_sends (hphase : DataPhase st a b k) (h : Awaiting s) (hst : s.state = st) (hd : s.dir = .write)
    (hb : s.bufferResponse = false) (hadv : s.nextModeStatus = a + bit 32 s.toggle)
    (hsteady : s.expectedStatus = b + bit 32 s.toggle) (hlen : s.txPos.toNat < s.txLen.toNat)
    (hw : cursorWord s = .ok w) :
    exec (.tick (goodCycle s.expectedStatus v) true) s = .next { s with
      log := s.log ++ [.write .valueOut w,
        .write .controlWord (BitVec.ofNat 32 ((s.params.baseModeWrite + k) * 256 + 2 * k + (!s.toggle).toNat))]
      changedMode := false
      toggle := !s.toggle
      nextModeStatus := a + bit 32 (!s.toggle)
      expectedStatus := b + bit 32 (!s.toggle)
      txPos := s.txPos + 1
      timeoutCtr := 0 } := by
  have hne : s.expectedStatus ≠ s.nextModeStatus := by rw [hadv, hsteady]; exact hphase.steady_ne_adv _
  rw [exec_tick_of_steady h ⟨rfl, rfl⟩ rfl hne, afterStatus_of_noResponse (s := reentering s) hb,
    hphase.part4_reentry_write _ (s := reentering s) hst rfl hd, andThen_go,
    sendAndControl_of_send (s := dataCodes a b (flipToggle (reentering s))) hd (hphase.state hst) hlen hw rfl rfl
      (hphase.controlWord hst), endTick_go rfl]
  simp [setLock, reentering, flipToggle, setToggle, dataCodes, setCodes, armResponse, codeWithToggle, baseMode, hd, hb,
    h.lock, h.waits]

/-- After part 4 of a read session a control word alone goes out. -/
theorem sendAndControl_of_read {c : Cycle} (hphase : DataPhase st a b k) (hst : s.state = st) (hd : s.dir = .read)
    (hc : c.controlWr = true) : sendAndControl c s = .go { s with
      log := s.log ++ [.write .controlWord
        (BitVec.ofNat 32 ((s.params.baseModeRead + k) * 256 + 2 * k + s.toggle.toNat))]
      waitingForStatus := true
      timeoutCtr := 0 } := by
  rw [sendAndControl_of_noSend (by simp [hd]) hc (hphase.controlWord hst), baseMode_of_read hd]

/-- A steady answer in `CurveInfo` of a read session: the word goes into DESC. -/
theorem exec_tick_receives_desc (h : Awaiting s) (hst : s.state = stCurveInfo) (hd : s.dir = .read)
    (hb : s.bufferResponse = true) (hadv : s.nextModeStatus = 0x02 + bit 32 s.toggle)
    (hsteady : s.expectedStatus = 0x402 + bit 32 s.toggle) (ht : s.rxTarget = .toDesc)
    (hroom : s.rxCount.toNat < s.rxCap.toNat) (hdesc : s.rxCount.toNat < descWords) :
    exec (.tick (goodCycle s.expectedStatus v) true) s = .next { s with
      desc := storeWord s.desc s.rxCount.toNat v
      rxCount := s.rxCount + 1
      log := s.log ++ [.write .controlWord
        (BitVec.ofNat 32 ((s.params.baseModeRead + 1) * 256 + 2 + (!s.toggle).toNat))]
      changedMode := false
      toggle := !s.toggle
      nextModeStatus := 0x02 + bit 32 (!s.toggle)
      expectedStatus := 0x402 + bit 32 (!s.toggle)
      timeoutCtr := 0 } := by
  have hne : s.expectedStatus ≠ s.nextModeStatus := by rw [hadv, hsteady]; exact DataPhase.curveInfo.steady_ne_adv _
  rw [exec_tick_of_steady h ⟨rfl, rfl⟩ rfl hne, afterStatus, receive_of_toDesc (s := reentering s) hb ht hroom hdesc,
    andThen_go, part4_of_curveInfo (by exact hst), armCurveinfo_of_reentry (by rfl), andThen_go,
    sendAndControl_of_read .curveInfo (by exact hst) (by exact hd) rfl, endTick_go rfl]
  simp [goodCycle, setLock, reentering, flipToggle, setToggle, dataCodes, setCodes, armResponse, codeWithToggle, hd, hb,
    h.lock, h.waits]

/-- A steady answer in `Setpoints` of a read session: the word goes behind the setpoints received. -/
theorem exec_tick_receives_setpoint (h : Awaiting s) (hst : s.state = stSetpoints) (hd : s.dir = .read)
    (hb : s.bufferResponse = true) (hadv : s.nextModeStatus = 0x04 + bit 32 s.toggle)
    (hsteady : s.expectedStatus = 0x404 + bit 32 s.toggle) (ht : s.rxTarget = .toPending)
    (hroom : s.spCount.toNat < s.params.maxSetpoints) :
    exec (.tick (goodCycle s.expectedStatus v) true) s = .next { s with
      sp := storeWord s.sp s.spCount.toNat v
      spCount := s.spCount + 1
      rxPending := v
      rxPendingValid := false
      log := s.log ++ [.write .controlWord
        (BitVec.ofNat 32 ((s.params.baseModeRead + 2) * 256 + 4 + (!s.toggle).toNat))]
      changedMode := false
      toggle := !s.toggle
      nextModeStatus := 0x04 + bit 32 (!s.toggle)
      expectedStatus := 0x404 + bit 32 (!s.toggle)
      timeoutCtr := 0 } := by
  have hne : s.expectedStatus ≠ s.nextModeStatus := by rw [hadv, hsteady]; exact DataPhase.setpoints.steady_ne_adv _
  rw [exec_tick_of_steady h ⟨rfl, rfl⟩ rfl hne, afterStatus, receive_of_toPending (s := reentering s) hb ht,
    andThen_go, part4_of_setpoints (by exact hst), armSetpoints_of_reentry_read (by rfl) (by exact hd),
    appendPending_of_room (by rfl) (by exact hroom), andThen_go, andThen_go,
    sendAndControl_of_read .setpoints (by exact hst) (by exact hd) rfl, endTick_go rfl]
  simp [goodCycle, setLock, reentering, appended, flipToggle, setToggle, dataCodes, setCodes, armResponse,
    codeWithToggle, hd, hb, h.lock, h.waits]

end

/-- Settles O43: `exec_tick_sends` in both data phases, `exec_tick_receives_desc` and `exec_tick_receives_setpoint`. -/
theorem steadyAnswerMovesOneWord : Obligations.SteadyAnswerMovesOneWord := by
  refine ⟨fun s v _ hbusy hlock hd hwait hb hlooks hlen => ?_,
    fun s v _ hbusy hlock hd hwait hb hlooks hdesc hsp => ?_⟩
  · have hawaits : Awaiting s := ⟨hbusy, hlock, hwait, hlooks⟩
    exact ⟨fun hst hadv hsteady hsrc hpos =>
        exec_tick_sends .curveInfo hawaits hst hd hb hadv hsteady hlen (cursorWord_of_desc hsrc hpos),
      fun hst hadv hsteady hsrc hpos =>
        exec_tick_sends .setpoints hawaits hst hd hb hadv hsteady hlen (cursorWord_of_sp hsrc hpos)⟩
  · have hawaits : Awaiting s := ⟨hbusy, hlock, hwait, hlooks⟩
    exact ⟨fun hst hadv hsteady ht hroom hcount =>
        ⟨_, exec_tick_receives_desc hawaits hst hd hb hadv hsteady ht hroom hcount, rfl, wordAt_storeWord hdesc,
          fun _ => readByte_storeWord_outside hdesc⟩,
      fun hst hadv hsteady ht hroom =>
        ⟨_, exec_tick_receives_setpoint hawaits hst hd hb hadv hsteady ht hroom, rfl, wordAt_storeWord hsp,
          fun _ => readByte_storeWord_outside hsp⟩⟩

end Sys2Proof.Machine
end

section
/-! Transport failures (43_step_sequencer R198, R199; 60_exceptions R308). A part of a step reads no log and makes its
events in one order; so with other writes succeeding, and after another log, it does the same up to the first write that
fails. -/

namespace Sys2Proof.Machine

/-! ### A part performed again -/

/-- The state after another log. -/
def withLog (l : List OutEvent) (s : State) : State := { s with log := l }

/-- The log a part leaves. -/
def Flow.events : Flow → List OutEvent
  | .go t => t.log
  | .ended t => t.log
  | .abandon l => l
  | .fault _ => []

/-- The outcome of a part with another log. -/
def Flow.relog (l : List OutEvent) : Flow → Flow
  | .go t => .go (withLog l t)
  | .ended t => .ended (withLog l t)
  | .abandon _ => .abandon l
  | .fault e => .fault e

/-- The outcome `x` of a part that makes the events `es` after the log `l`, in a cycle in which not every write
succeeds: the part is abandoned at the first that fails. -/
def cutAtFailure (c : Cycle) (l es : List OutEvent) (x : Flow) : Flow :=
  if es.all (passes c) then x else .abandon (l ++ es.takeWhile (passes c))

/-- From the log `k` with all writes ok a part comes out as `x`; from the log `l`, with the writes of the cycle, as
`y`. -/
def Replays (c : Cycle) (k l : List OutEvent) (x y : Flow) : Prop :=
  (∃ e, x = .fault e) ∨ ∃ es, x.events = k ++ es ∧ y = cutAtFailure c l es (x.relog (l ++ es))

section
variable {c : Cycle} {k l es : List OutEvent} {x y : Flow} {f g : State → Flow} {s : State}

theorem cutAtFailure_of_all (h : es.all (passes c) = true) : cutAtFailure c l es x = x := if_pos h

theorem cutAtFailure_of_not_all (h : ¬ es.all (passes c) = true) :
    cutAtFailure c l es x = .abandon (l ++ es.takeWhile (passes c)) := if_neg h

/-- After events that pass, the next are cut where they fail. -/
theorem cutAtFailure_append_of_all {es' : List OutEvent} (h : es.all (passes c) = true) :
    cutAtFailure c l (es ++ es') x = cutAtFailure c (l ++ es) es' x := by
  have hpos : ∀ e ∈ es, passes c e = true := List.all_eq_true.1 h
  simp only [cutAtFailure, List.all_append, h, Bool.true_and, List.takeWhile_append_of_pos hpos, List.append_assoc]

/-- After an event that fails, the next are not made. -/
theorem cutAtFailure_append_of_not_all {es' : List OutEvent} (h : ¬ es.all (passes c) = true) :
    cutAtFailure c l (es ++ es') x = .abandon (l ++ es.takeWhile (passes c)) := by
  have hlen : (es.takeWhile (passes c)).length ≠ es.length := fun hlen =>
    h (List.all_eq_true.2 (List.takeWhile_eq_self_iff.1
      ((List.takeWhile_sublist (passes c)).eq_of_length hlen)))
  rw [cutAtFailure_of_not_all (by simp [List.all_append, h]), List.takeWhile_append, if_neg hlen]

/-- A part that makes no event. -/
theorem replays_silent (hx : x.events = s.log) (hy : y = x.relog l) : Replays c s.log l x y :=
  .inr ⟨[], by rw [hx, List.append_nil], by rw [hy, List.append_nil]; rfl⟩

theorem replays_andThen (hx : Replays c k l x y)
    (hf : ∀ t m, Replays c t.log m (f t) (g (withLog m t))) : Replays c k l (x.andThen f) (y.andThen g) := by
  obtain ⟨e, rfl⟩ | ⟨es, hes, rfl⟩ := hx
  · exact .inl ⟨e, rfl⟩
  · cases x with
    | go t =>
      have hlog : t.log = k ++ es := hes
      obtain hfault | ⟨es', hes', hg⟩ := hf t (l ++ es)
      · exact .inl hfault
      · refine .inr ⟨es ++ es', by rw [andThen_go, hes', hlog, List.append_assoc], ?_⟩
        by_cases hall : es.all (passes c) = true
        · rw [cutAtFailure_of_all hall, cutAtFailure_append_of_all hall]
          exact hg.trans (by rw [List.append_assoc]; rfl)
        · rw [cutAtFailure_of_not_all hall, cutAtFailure_append_of_not_all hall]
          rfl
    | ended t => exact .inr ⟨es, hes, by unfold cutAtFailure; split <;> rfl⟩
    | abandon m => exact .inr ⟨es, hes, by unfold cutAtFailure; split <;> rfl⟩
    | fault e => exact .inl ⟨e, rfl⟩

/-- A condition that reads no log. -/
theorem replays_ite {p q : Prop} [Decidable p] [Decidable q] {x' y' : Flow} (hpq : p ↔ q)
    (hx : p → Replays c k l x y) (hx' : ¬ p → Replays c k l x' y') :
    Replays c k l (if p then x else x') (if q then y else y') := by
  by_cases hp : p
  · rw [if_pos hp, if_pos (hpq.1 hp)]
    exact hx hp
  · rw [if_neg hp, if_neg fun hq => hp (hpq.2 hq)]
    exact hx' hp

/-! ### The parts of a step -/

theorem replays_regWrite (p : OutPort) (v : Word) (l : List OutEvent) :
    Replays c s.log l (regWrite p true v s) (regWrite p (writeOk c p) v (withLog l s)) := by
  refine .inr ⟨[.write p v], rfl, ?_⟩
  cases hok : writeOk c p with
  | true => rw [cutAtFailure_of_all (by simp [passes, hok])]; rfl
  | false => rw [cutAtFailure_of_not_all (by simp [passes, hok])]; simp [passes, hok, withLog]

/-- A pulse passes in every cycle. -/
theorem replays_pulse {e : OutEvent} (l : List OutEvent) (he : passes c e = true) :
    Replays c s.log l (.go (emit e s)) (.go (emit e (withLog l s))) :=
  .inr ⟨[e], rfl, by rw [cutAtFailure_of_all (by simp [he])]; rfl⟩

theorem replays_regReads (l : List OutEvent) :
    Replays c s.log l (regReads (writesOk c) s) (regReads c (withLog l s)) :=
  replays_ite Iff.rfl (fun _ => replays_silent rfl rfl) fun _ => replays_silent rfl rfl

theorem replays_actOnStatus (sw : Word) (l : List OutEvent) :
    Replays c s.log l (actOnStatus sw s) (actOnStatus sw (withLog l s)) := by
  have hclass : classify sw (withLog l s) = classify sw s := rfl
  simp only [actOnStatus, hclass]
  cases classify sw s <;> exact replays_silent rfl rfl

theorem countLook_withLog (l : List OutEvent) (s : State) :
    (countLook s).log = s.log ∧ countLook (withLog l s) = withLog l (countLook s) := by
  cases hwait : s.waitingForStatus <;> simp [countLook, withLog, hwait]

theorem replays_checkExpired (l : List OutEvent) : Replays c s.log l (checkExpired s) (checkExpired (withLog l s)) :=
  replays_ite Iff.rfl (fun _ => replays_silent rfl rfl) fun _ => replays_silent rfl rfl

theorem replays_part2 (sw : Word) (l : List OutEvent) : Replays c s.log l (part2 sw s) (part2 sw (withLog l s)) := by
  obtain ⟨hlog, hlook⟩ := countLook_withLog l s
  refine replays_ite Iff.rfl (fun _ => ?_) fun _ => replays_silent rfl rfl
  rw [← hlog, hlook]
  exact replays_andThen (replays_checkExpired l) fun _ => replays_actOnStatus sw

theorem replays_receive (v : Word) (l : List OutEvent) :
    Replays c s.log l (receive v s) (receive v (withLog l s)) := by
  have htarget : (withLog l s).rxTarget = s.rxTarget := rfl
  refine replays_ite Iff.rfl (fun _ => ?_) fun _ => replays_silent rfl rfl
  simp only [storeReceived, htarget]
  cases s.rxTarget with
  | toDesc =>
    exact replays_ite Iff.rfl (fun _ => replays_silent rfl rfl) fun _ =>
      replays_ite Iff.rfl (fun _ => replays_silent rfl rfl) fun _ => .inl ⟨_, rfl⟩
  | toPending => exact replays_silent rfl rfl

theorem replays_appendPending (l : List OutEvent) :
    Replays c s.log l (appendPending s) (appendPending (withLog l s)) :=
  replays_ite Iff.rfl (fun _ => replays_ite Iff.rfl (fun _ => replays_silent rfl rfl) fun _ => replays_silent rfl rfl)
    fun _ => replays_silent rfl rfl

/-! ### The arms of part 4 -/

theorem replays_armInit (l : List OutEvent) : Replays c s.log l (armInit s) (armInit (withLog l s)) := by
  cases hd : s.dir with
  | write =>
    rw [armInit_of_write hd, armInit_of_write (s := withLog l s) hd]
    exact replays_andThen (f := fun u => .go (setCodes 0x0F 0x0F u)) (g := fun u => .go (setCodes 0x0F 0x0F u))
      (replays_pulse l rfl) fun _ _ => replays_silent rfl rfl
  | read =>
    rw [armInit_of_read hd, armInit_of_read (s := withLog l s) hd]
    exact replays_silent rfl rfl

theorem replays_armSendcmd (l : List OutEvent) :
    Replays c s.log l (armSendcmd true true s) (armSendcmd c.indexWr c.valueWr (withLog l s)) := by
  unfold armSendcmd
  exact replays_andThen (replays_regWrite (s := setToggle true s) .indexOut (iwBits s.curveId) l) fun u m =>
    replays_andThen (replays_regWrite .valueOut (sizeWord u) m) fun _ _ => replays_silent rfl rfl

theorem replays_armCurveinfo (l : List OutEvent) :
    Replays c s.log l (armCurveinfo s) (armCurveinfo (withLog l s)) := by
  cases hc : s.changedMode with
  | false =>
    rw [armCurveinfo_of_reentry hc, armCurveinfo_of_reentry (s := withLog l s) hc]
    exact replays_silent rfl rfl
  | true =>
    rw [armCurveinfo_of_entry hc, armCurveinfo_of_entry (s := withLog l s) hc]
    cases hd : s.dir with
    | write =>
      rw [enterCurveinfo_of_write hd, enterCurveinfo_of_write (s := withLog l s) hd]
      exact replays_silent rfl rfl
    | read =>
      rw [enterCurveinfo_of_read hd, enterCurveinfo_of_read (s := withLog l s) hd]
      exact replays_silent rfl rfl

theorem replays_armSetpoints (l : List OutEvent) :
    Replays c s.log l (armSetpoints s) (armSetpoints (withLog l s)) := by
  cases hc : s.changedMode with
  | true =>
    cases hd : s.dir with
    | write =>
      rw [armSetpoints_of_entry_write hc hd, armSetpoints_of_entry_write (s := withLog l s) hc hd]
      exact replays_silent rfl rfl
    | read =>
      by_cases hcount : s.rxCount.toNat = 18
      · rw [armSetpoints_of_entry_read hc hd hcount, armSetpoints_of_entry_read (s := withLog l s) hc hd hcount]
        exact replays_silent rfl rfl
      · rw [armSetpoints_of_entry_short hc hd hcount, armSetpoints_of_entry_short (s := withLog l s) hc hd hcount]
        exact replays_silent rfl rfl
  | false =>
    cases hd : s.dir with
    | write =>
      rw [armSetpoints_of_reentry_write hc hd, armSetpoints_of_reentry_write (s := withLog l s) hc hd]
      exact replays_silent rfl rfl
    | read =>
      rw [armSetpoints_of_reentry_read hc hd, armSetpoints_of_reentry_read (s := withLog l s) hc hd]
      exact replays_andThen (replays_appendPending (s := flipToggle s) l) fun _ _ => replays_silent rfl rfl

theorem replays_finishRead (l : List OutEvent) : Replays c s.log l (finishRead s) (finishRead (withLog l s)) := by
  cases hd : s.dir with
  | write =>
    rw [finishRead_of_write hd, finishRead_of_write (s := withLog l s) hd]
    exact replays_silent rfl rfl
  | read =>
    rw [finishRead_of_read hd, finishRead_of_read (s := withLog l s) hd]
    exact replays_andThen (replays_appendPending l) fun _ m => replays_pulse m rfl

theorem replays_armFinished (l : List OutEvent) : Replays c s.log l (armFinished s) (armFinished (withLog l s)) :=
  replays_andThen (replays_finishRead l) fun _ _ => replays_silent rfl rfl

theorem replays_part4 (l : List OutEvent) : Replays c s.log l (part4 (writesOk c) s) (part4 c (withLog l s)) :=
  replays_ite Iff.rfl (fun _ => replays_armInit l) fun _ =>
  replays_ite Iff.rfl (fun _ => replays_armSendcmd l) fun _ =>
  replays_ite Iff.rfl (fun _ => replays_armCurveinfo l) fun _ =>
  replays_ite Iff.rfl (fun _ => replays_armSetpoints l) fun _ =>
  replays_ite Iff.rfl (fun _ => replays_armFinished l) fun _ => replays_silent rfl rfl

/-! ### Parts 5 to 7 -/

theorem replays_sendNext (l : List OutEvent) :
    Replays c s.log l (sendNext true s) (sendNext c.valueWr (withLog l s)) := by
  have hcursor : cursorWord (withLog l s) = cursorWord s := rfl
  refine replays_ite Iff.rfl (fun _ => ?_) fun _ => replays_silent rfl rfl
  rw [hcursor]
  cases cursorWord s with
  | ok w => exact replays_andThen (replays_regWrite .valueOut w l) fun _ _ => replays_silent rfl rfl
  | error e => exact .inl ⟨e, rfl⟩

theorem replays_part5 (l : List OutEvent) : Replays c s.log l (part5 (writesOk c) s) (part5 c (withLog l s)) :=
  replays_ite Iff.rfl (fun _ => replays_sendNext l) fun _ => replays_silent rfl rfl

theorem replays_emitControl (l : List OutEvent) :
    Replays c s.log l (emitControl true s) (emitControl c.controlWr (withLog l s)) := by
  have hword : controlWord (withLog l s) = controlWord s := rfl
  rw [emitControl, emitControl, hword]
  cases controlWord s with
  | some w => exact replays_andThen (replays_regWrite .controlWord w l) fun _ _ => replays_silent rfl rfl
  | none => exact replays_silent rfl rfl

theorem replays_stepParts (l : List OutEvent) :
    Replays c s.log l (stepParts (writesOk c) s) (stepParts c (withLog l s)) :=
  replays_andThen (replays_regReads (s := clearChanged s) l) fun _ m =>
  replays_andThen (replays_part2 c.status m) fun _ m =>
  replays_andThen (replays_receive c.value m) fun _ m =>
  replays_andThen (replays_part4 m) fun _ m =>
  replays_andThen (replays_part5 m) fun _ => replays_emitControl

/-! ### The tick -/

theorem giveBack_withLog (l : List OutEvent) (t : State) : giveBack (withLog l t) = withLog l (giveBack t) := by
  unfold giveBack
  split
  · rw [if_pos (by assumption)]; rfl
  · rw [if_neg (by assumption)]

theorem giveBack_log (t : State) : (giveBack t).log = t.log := by
  obtain ⟨-, e⟩ | ⟨-, e⟩ := giveBack_cases t <;> rw [e]
  rfl

theorem setLock_free_of_free (hlock : s.lock = .free) : setLock .free s = s := by
  rw [← hlock]
  rfl

/-- A step that was abandoned changes no register, the lock included. -/
theorem endTick_abandon (hlock : s.lock = .free) (l : List OutEvent) :
    endTick s (.abandon l) = .next (withLog l s) :=
  (endTick_go (s := s) (t := withLog l (setLock .stepped s)) rfl).trans
    (congrArg (fun u => Host.Outcome.next (withLog l u)) (setLock_free_of_free hlock))

/-- The end of the tick reads no log. -/
theorem endTick_relog {t : State} (hlock : s.lock = .free) (l m : List OutEvent) (h : endTick s x = .next t) :
    t.log = x.events ∧ endTick (withLog m s) (x.relog l) = .next (withLog l t) := by
  cases x with
  | go u =>
    obtain rfl : giveBack u = t := Host.Outcome.next.inj h
    exact ⟨giveBack_log u, congrArg _ (giveBack_withLog l u)⟩
  | ended u =>
    obtain rfl : giveBack u = t := Host.Outcome.next.inj h
    exact ⟨giveBack_log u, congrArg _ (giveBack_withLog l u)⟩
  | abandon k =>
    rw [endTick_abandon hlock] at h
    obtain rfl := Host.Outcome.next.inj h
    exact ⟨rfl, endTick_abandon (s := withLog m s) hlock l⟩
  | fault e => cases h

theorem exec_tick_of_notBusy (hidle : s.xferState ≠ .busy) : exec (.tick c true) s = .next s := if_neg hidle

/-- A failed read abandons the step before its first event (R199). -/
theorem exec_tick_of_failedRead (hlock : s.lock = .free) (h : c.statusOk = false ∨ c.valueOk = false) :
    exec (.tick c true) s = .next s := by
  by_cases hbusy : s.xferState = .busy
  · have habandon : stepParts c (setLock .stepped s) = .abandon s.log := by
      obtain ⟨hs, hv, -⟩ | ⟨-, e⟩ := regReads_cases c (clearChanged (setLock .stepped s))
      · simp [hs, hv] at h
      · rw [stepParts, e, andThen_abandon]; rfl
    rw [exec_tick_of_free hbusy hlock, habandon]
    exact endTick_abandon hlock s.log
  · exact exec_tick_of_notBusy hbusy

/-- If a tick with all writes ok leads to `t` with the events `es`, then a tick after any log, with the same reads and
any writes, leads to `t` if all of `es` pass; otherwise it makes the events before the first failure alone. -/
theorem exec_tick_replays {t : State} (hlock : s.lock = .free) (h : exec (.tick (writesOk c) true) s = .next t) :
    ∃ es, t.log = s.log ++ es ∧ ∀ c' l, writesOk c' = writesOk c →
      exec (.tick c' true) (withLog l s) = .next (if es.all (passes c') then withLog (l ++ es) t
        else withLog (l ++ es.takeWhile (passes c')) s) := by
  by_cases hbusy : s.xferState = .busy
  · rw [exec_tick_of_free hbusy hlock] at h
    obtain ⟨hlog, -⟩ := endTick_relog hlock [] [] h
    have hreplays : ∀ c' l, writesOk c' = writesOk c →
        ∃ es, (stepParts (writesOk c) (setLock .stepped s)).events = s.log ++ es ∧
          stepParts c' (setLock .stepped (withLog l s)) =
            cutAtFailure c' l es ((stepParts (writesOk c) (setLock .stepped s)).relog (l ++ es)) := fun c' l hc' => by
      obtain ⟨e, he⟩ | hes := replays_stepParts (c := c') (s := setLock .stepped s) l
      · rw [hc'] at he; rw [he] at h; cases h
      · rw [hc'] at hes; exact hes
    obtain ⟨es, hes, -⟩ := hreplays c [] rfl
    refine ⟨es, hlog.trans hes, fun c' l hc' => ?_⟩
    obtain ⟨es', hes', hcut⟩ := hreplays c' l hc'
    obtain rfl : es' = es := List.append_cancel_left (hes'.symm.trans hes)
    rw [exec_tick_of_free (s := withLog l s) hbusy hlock, hcut, cutAtFailure]
    split
    · exact (endTick_relog hlock _ l h).2
    · exact endTick_abandon (s := withLog l s) hlock _
  · rw [exec_tick_of_notBusy hbusy] at h
    obtain rfl := Host.Outcome.next.inj h
    refine ⟨[], (List.append_nil _).symm, fun c' l _ => ?_⟩
    rw [exec_tick_of_notBusy (s := withLog l s) hbusy]
    simp

theorem added_append (k es : List OutEvent) : added k (k ++ es) = es := List.drop_left

theorem passes_writesOk (c : Cycle) (e : OutEvent) : passes (writesOk c) e = true := by
  cases e with
  | write p v => cases p <;> rfl
  | deleteCurveReq id => rfl
  | projectionReq => rfl

end

/-- Settles O45: the tick of the cycle, and the retry, replay the tick with all writes ok (`exec_tick_replays`). -/
theorem transportFailureChangesNoRegister : Obligations.TransportFailureChangesNoRegister := by
  intro s t c hlock
  refine ⟨exec_tick_of_failedRead hlock, fun h => ?_⟩
  obtain ⟨es, hlog, hreplays⟩ := exec_tick_replays hlock h
  have hadded : added s.log t.log = es := by rw [hlog, added_append]
  have hcycle : exec (.tick c true) s = _ := hreplays c s.log rfl
  rw [hadded]
  refine ⟨hlog, fun hall => ?_, fun ⟨e, he, hfails⟩ => ?_, ?_⟩
  · rw [hcycle, if_pos (List.all_eq_true.2 hall), ← hlog]
    rfl
  · rw [hcycle, if_neg fun hall => by simp [List.all_eq_true.1 hall e he] at hfails]
    rfl
  · rw [← withLog, hreplays (writesOk c) _ rfl, if_pos (List.all_eq_true.2 fun e _ => passes_writesOk c e)]
    rfl

end Sys2Proof.Machine
end

section
/-! Advancing (43_step_sequencer R207 to R212): the exchange that enters each phase, and the one that ends the session,
register by register. -/

namespace Sys2Proof.Machine

section
variable {s : State} {v : Word}

/-- The control word of the phase of this number, with this toggle (30_encoding R101). -/
def phaseControl (k : Nat) (t : Bool) (s : State) : OutEvent :=
  .write .controlWord (BitVec.ofNat 32 ((baseMode s + k) * 256 + 2 * k + t.toNat))

/-- The advance code of `Init`: the index and the size word go out. -/
theorem exec_tick_commands (h : Awaiting s) (hst : s.state = stInit) (hb : s.bufferResponse = false) :
    exec (.tick (goodCycle s.nextModeStatus v) true) s = .next { commanded s with
      state := stSendCommand
      changedMode := true
      log := (commanded s).log ++ [phaseControl 0 true s]
      timeoutCtr := 0 } := by
  have hentered : (entering s).state = stSendCommand := by rw [entering, hst]; rfl
  have hword : controlWord (commanded (entering s)) = some _ :=
    controlWord_of_number (k := 0) (by decide) (congrArg BitVec.toNat hentered)
  have hnosend : ¬ ((commanded (entering s)).dir = .write ∧
      ((commanded (entering s)).state = stCurveInfo ∨ (commanded (entering s)).state = stSetpoints)) := by
    simp [commanded, hentered, stSendCommand, stCurveInfo, stSetpoints]
  rw [exec_tick_of_adv h ⟨rfl, rfl⟩ rfl, afterStatus_of_noResponse (s := entering s) hb, part4_of_sendCommand hentered]
  simp only [goodCycle]
  rw [armSendcmd_true_true, andThen_go, sendAndControl_of_noSend hnosend rfl hword, endTick_go rfl]
  simp [setLock, commanded, entering, phaseControl, baseMode, sizeWord, hst, succState, stInit, stSendCommand,
    h.lock, h.waits]

/-- The advance code of `SendCommand` in a write session: the first word of DESC goes out. -/
theorem exec_tick_enters_curveInfo_write (h : Awaiting s) (hst : s.state = stSendCommand) (hd : s.dir = .write)
    (hb : s.bufferResponse = false) :
    exec (.tick (goodCycle s.nextModeStatus v) true) s = .next { s with
      state := stCurveInfo
      changedMode := true
      log := s.log ++ [.write .valueOut (wordAt s.desc 0), phaseControl 1 (!s.toggle) s]
      toggle := !s.toggle
      nextModeStatus := 0x02 + bit 32 (!s.toggle)
      expectedStatus := 0x402 + bit 32 (!s.toggle)
      txSrc := .fromDesc
      txPos := 1
      txLen := 18
      timeoutCtr := 0 } := by
  have hentered : (entering s).state = stCurveInfo := by rw [entering, hst]; rfl
  rw [exec_tick_of_adv h ⟨rfl, rfl⟩ rfl, afterStatus_of_noResponse (s := entering s) hb, part4_of_curveInfo hentered,
    armCurveinfo_of_entry (by rfl), enterCurveinfo_of_write (by exact hd), andThen_go,
    sendAndControl_of_send (by exact hd) (.inl (by exact hentered)) (by exact Nat.zero_lt_succ 17)
      (cursorWord_of_desc (by rfl) (by exact Nat.zero_lt_succ 17)) rfl rfl
      (DataPhase.curveInfo.controlWord (by exact hentered)), endTick_go rfl]
  simp [setLock, entering, loadTxDesc, flipToggle, setToggle, dataCodes, setCodes, armResponse, codeWithToggle,
    phaseControl, baseMode, hst, hd, hb, succState, stSendCommand, stCurveInfo, h.lock, h.waits]

/-- The advance code of `SendCommand` in a read session: reception into DESC is armed. -/
theorem exec_tick_enters_curveInfo_read (h : Awaiting s) (hst : s.state = stSendCommand) (hd : s.dir = .read)
    (hb : s.bufferResponse = false) :
    exec (.tick (goodCycle s.nextModeStatus v) true) s = .next { s with
      state := stCurveInfo
      changedMode := true
      log := s.log ++ [phaseControl 1 (!s.toggle) s]
      toggle := !s.toggle
      nextModeStatus := 0x02 + bit 32 (!s.toggle)
      expectedStatus := 0x402 + bit 32 (!s.toggle)
      bufferResponse := true
      rxTarget := .toDesc
      rxCount := 0
      rxCap := 18
      timeoutCtr := 0 } := by
  have hentered : (entering s).state = stCurveInfo := by rw [entering, hst]; rfl
  rw [exec_tick_of_adv h ⟨rfl, rfl⟩ rfl, afterStatus_of_noResponse (s := entering s) hb, part4_of_curveInfo hentered,
    armCurveinfo_of_entry (by rfl), enterCurveinfo_of_read (by exact hd), andThen_go,
    sendAndControl_of_read .curveInfo (by exact hentered) (by exact hd) rfl, endTick_go rfl]
  simp [setLock, entering, armRxDesc, flipToggle, setToggle, dataCodes, setCodes, armResponse, codeWithToggle,
    phaseControl, baseMode, hst, hd, succState, stSendCommand, stCurveInfo, h.lock, h.waits]

/-- The advance code of `CurveInfo` in a write session: the first setpoint goes out. -/
theorem exec_tick_enters_setpoints_write (h : Awaiting s) (hst : s.state = stCurveInfo) (hd : s.dir = .write)
    (hb : s.bufferResponse = false) (hcount : 0 < s.spCount.toNat) (hmax : 0 < s.params.maxSetpoints) :
    exec (.tick (goodCycle s.nextModeStatus v) true) s = .next { s with
      state := stSetpoints
      changedMode := true
      log := s.log ++ [.write .valueOut (wordAt s.sp 0), phaseControl 2 false s]
      toggle := false
      nextModeStatus := 0x04
      expectedStatus := 0x404
      txSrc := .fromSp
      txPos := 1
      txLen := s.spCount
      timeoutCtr := 0 } := by
  have hentered : (entering s).state = stSetpoints := by rw [entering, hst]; rfl
  rw [exec_tick_of_adv h ⟨rfl, rfl⟩ rfl, afterStatus_of_noResponse (s := entering s) hb, part4_of_setpoints hentered,
    armSetpoints_of_entry_write (by rfl) (by exact hd), andThen_go,
    sendAndControl_of_send (by exact hd) (.inr (by exact hentered)) (by exact hcount)
      (cursorWord_of_sp (by rfl) (by exact hmax)) rfl rfl
      (DataPhase.setpoints.controlWord (by exact hentered)), endTick_go rfl]
  simp [setLock, entering, loadTxSp, setToggle, dataCodes, setCodes, armResponse, codeWithToggle, bit, phaseControl,
    baseMode, hst, hd, hb, succState, stCurveInfo, stSetpoints, h.lock, h.waits]

/-- The advance code of `CurveInfo` in a read session: the last word of DESC arrives, reception of setpoints is
armed. -/
theorem exec_tick_enters_setpoints_read (h : Awaiting s) (hst : s.state = stCurveInfo) (hd : s.dir = .read)
    (hb : s.bufferResponse = true) (ht : s.rxTarget = .toDesc) (hcount : s.rxCount = 17) (hcap : s.rxCap = 18) :
    exec (.tick (goodCycle s.nextModeStatus v) true) s = .next { s with
      state := stSetpoints
      changedMode := true
      desc := storeWord s.desc 17 v
      log := s.log ++ [phaseControl 2 false s]
      toggle := false
      nextModeStatus := 0x04
      expectedStatus := 0x404
      spCount := 0
      rxTarget := .toPending
      rxCount := 18
      rxPendingValid := false
      timeoutCtr := 0 } := by
  have hentered : (entering s).state = stSetpoints := by rw [entering, hst]; rfl
  have hroom : (entering s).rxCount.toNat < (entering s).rxCap.toNat := by simp [entering, hcount, hcap]
  have hdesc : (entering s).rxCount.toNat < descWords := by simp [entering, hcount, descWords]
  rw [exec_tick_of_adv h ⟨rfl, rfl⟩ rfl, afterStatus, receive_of_toDesc (s := entering s) hb ht hroom hdesc, andThen_go,
    part4_of_setpoints (by exact hentered), armSetpoints_of_entry_read (by rfl) (by exact hd)
      (by simp [entering, hcount]), andThen_go,
    sendAndControl_of_read .setpoints (by exact hentered) (by exact hd) rfl, endTick_go rfl]
  simp [goodCycle, setLock, entering, armRxSp, setToggle, dataCodes, setCodes, armResponse, codeWithToggle, bit,
    phaseControl, baseMode, hst, hd, hb, hcount, succState, stCurveInfo, stSetpoints, h.lock, h.waits]

/-- The advance code of `Setpoints` in a write session: the session is done. -/
theorem exec_tick_finishes_write (h : Awaiting s) (hst : s.state = stSetpoints) (hd : s.dir = .write)
    (hb : s.bufferResponse = false) :
    exec (.tick (goodCycle s.nextModeStatus v) true) s = .next { reportSuccess s with
      state := stFinished
      changedMode := true
      timeoutCtr := s.timeoutCtr + 1 } := by
  have hentered : (entering s).state = stFinished := by rw [entering, hst]; rfl
  rw [exec_tick_of_adv h ⟨rfl, rfl⟩ rfl, afterStatus_of_noResponse (s := entering s) hb, part4_of_finished hentered,
    armFinished_of_write (by exact hd), andThen_ended, endTick_ended rfl]
  simp [setLock, entering, reportSuccess, hst, succState, stSetpoints, stFinished, h.lock]

/-- The advance code of `Setpoints` in a read session: the last setpoint arrives and the session is done. -/
theorem exec_tick_finishes_read (h : Awaiting s) (hst : s.state = stSetpoints) (hd : s.dir = .read)
    (hb : s.bufferResponse = true) (ht : s.rxTarget = .toPending) (hroom : s.spCount.toNat < s.params.maxSetpoints) :
    exec (.tick (goodCycle s.nextModeStatus v) true) s = .next { reportSuccess s with
      state := stFinished
      changedMode := true
      sp := storeWord s.sp s.spCount.toNat v
      spCount := s.spCount + 1
      rxPending := v
      rxPendingValid := false
      log := s.log ++ [.projectionReq]
      timeoutCtr := s.timeoutCtr + 1 } := by
  have hentered : (entering s).state = stFinished := by rw [entering, hst]; rfl
  rw [exec_tick_of_adv h ⟨rfl, rfl⟩ rfl, afterStatus, receive_of_toPending (s := entering s) hb ht, andThen_go,
    part4_of_finished (by exact hentered), armFinished_of_read_room (by exact hd) (by rfl) (by exact hroom),
    andThen_ended, endTick_ended rfl]
  simp [goodCycle, setLock, entering, reportSuccess, appended, emit, hst, succState, stSetpoints, stFinished, h.lock]

end

end Sys2Proof.Machine
end

section
/-! A whole session (43_step_sequencer R216): a tick for each exchange, from the state after the request to `Finished`.
What a session has sent or received so far is an invariant of each data phase. -/

namespace Sys2Proof.Machine

/-! ### A run of granted ticks -/

/-- `run k` is `k` granted ticks with the device that answers `dev`. -/
structure TicksOf (dev : State → Cycle) (run : Nat → State → Host.Outcome State Fault Refusal) : Prop where
  zero : ∀ s, run 0 s = .next s
  succ : ∀ k s t, exec (.tick (dev s) true) s = .next t → run (k + 1) s = run k t

theorem ticksOf_takingRun : TicksOf (fun s => goodCycle (takingStatus s) 0) takingRun where
  zero _ := rfl
  succ k s t h := by simp only [takingRun, h]

theorem ticksOf_givingRun (d : Nat → Word) (p : List Word) : TicksOf (givingCycle d p) (givingRun d p) where
  zero _ := rfl
  succ k s t h := by simp only [givingRun, h]

/-- `k` ticks lead from `s` to a state that meets `P`. -/
def Reaches (run : Nat → State → Host.Outcome State Fault Refusal) (k : Nat) (s : State) (P : State → Prop) : Prop :=
  ∃ t, run k s = .next t ∧ P t

section
variable {dev : State → Cycle} {run : Nat → State → Host.Outcome State Fault Refusal} {P : State → Prop} {s t : State}

theorem TicksOf.here (hrun : TicksOf dev run) (h : P s) : Reaches run 0 s P := ⟨s, hrun.zero s, h⟩

theorem TicksOf.tick (hrun : TicksOf dev run) {k : Nat} (hs : exec (.tick (dev s) true) s = .next t)
    (ht : Reaches run k t P) : Reaches run (k + 1) s P := by
  obtain ⟨u, hu, hP⟩ := ht
  exact ⟨u, (hrun.succ k s t hs).trans hu, hP⟩

/-- A phase of `n` exchanges, `m` of them still to come. -/
theorem TicksOf.phase (hrun : TicksOf dev run) {I : Nat → State → Prop} {n k : Nat}
    (hstep : ∀ j s, j < n → I j s → ∃ t, exec (.tick (dev s) true) s = .next t ∧ I (j + 1) t)
    (hend : ∀ s, I n s → Reaches run k s P) :
    ∀ m j s, j + m = n → I j s → Reaches run (m + k) s P := by
  intro m
  induction m with
  | zero =>
    rintro j s rfl h
    rw [Nat.zero_add]
    exact hend s h
  | succ m ih =>
    intro j s hj h
    obtain ⟨t, ht, hI⟩ := hstep j s (by omega) h
    rw [Nat.succ_add]
    exact hrun.tick ht (ih (j + 1) t (by omega) hI)

end

/-! ### What has been sent -/

/-- The log `l` continues `k` by events that wrote these words. -/
def Sent (k l : List OutEvent) (index values : List Word) : Prop :=
  ∃ es, l = k ++ es ∧ wordsTo .indexOut es = index ∧ wordsTo .valueOut es = values

theorem wordsTo_append (p : OutPort) (l m : List OutEvent) : wordsTo p (l ++ m) = wordsTo p l ++ wordsTo p m :=
  List.filterMap_append

theorem Sent.extend {k l l' es : List OutEvent} {index index' values values' : List Word}
    (h : Sent k l index values) (hlog : l' = l ++ es) (hindex : index ++ wordsTo .indexOut es = index')
    (hvalues : values ++ wordsTo .valueOut es = values') : Sent k l' index' values' := by
  obtain ⟨fs, rfl, rfl, rfl⟩ := h
  exact ⟨fs ++ es, by rw [hlog, List.append_assoc], by rw [wordsTo_append, hindex], by rw [wordsTo_append, hvalues]⟩

/-- A counter below its width steps by one. -/
theorem toNat_succ_of_lt {w : Nat} {x : BitVec w} (h : x.toNat + 1 < 2 ^ w) : (x + 1).toNat = x.toNat + 1 := by
  have hone : (1 : BitVec w).toNat = 1 := by
    show (BitVec.ofNat w 1).toNat = 1
    rw [BitVec.toNat_ofNat, Nat.mod_eq_of_lt (by omega)]
  rw [BitVec.toNat_add, hone, Nat.mod_eq_of_lt h]

/-- A write session between two ticks, since the state `s0` right after its request. -/
structure Underway (s0 s : State) (index values : List Word) : Prop where
  awaits : Awaiting s
  dir : s.dir = .write
  response : s.bufferResponse = false
  params : s.params = s0.params
  desc : s.desc = s0.desc
  sp : s.sp = s0.sp
  spCount : s.spCount = s0.spCount
  underflow : s.underflowFlag = s0.underflowFlag
  sent : Sent s0.log s.log index values

/-- A data phase of a write session: `j` of its `n` words are sent. -/
structure Sending (st : BitVec 3) (a b : Word) (src : TxSrc) (n : Nat) (s0 : State) (index values : List Word)
    (j : Nat) (s : State) : Prop extends Underway s0 s index values where
  state : s.state = st
  adv : s.nextModeStatus = a + bit 32 s.toggle
  steady : s.expectedStatus = b + bit 32 s.toggle
  source : s.txSrc = src
  len : s.txLen.toNat = n
  pos : s.txPos.toNat = j

section
variable {s0 s : State} {st : BitVec 3} {a b w : Word} {src : TxSrc} {n j k : Nat} {index values : List Word}

theorem takingStatus_of_start (hst : s.state = stInit ∨ s.state = stSendCommand) :
    takingStatus s = s.nextModeStatus := if_pos hst

theorem DataPhase.not_start (h : DataPhase st a b k) (hst : s.state = st) :
    ¬ (s.state = stInit ∨ s.state = stSendCommand) := by
  cases h <;> simp [hst, stInit, stSendCommand, stCurveInfo, stSetpoints]

theorem takingStatus_of_more (hphase : DataPhase st a b k) (h : Sending st a b src n s0 index values j s)
    (hj : j < n) : takingStatus s = s.expectedStatus := by
  rw [takingStatus, if_neg (hphase.not_start h.state), if_pos (by rw [h.pos, h.len]; exact hj)]

theorem takingStatus_of_all (hphase : DataPhase st a b k) (h : Sending st a b src n s0 index values n s) :
    takingStatus s = s.nextModeStatus := by
  rw [takingStatus, if_neg (hphase.not_start h.state), if_neg (by rw [h.pos, h.len]; exact Nat.lt_irrefl n)]

/-- One exchange of a data phase sends the word under the cursor. -/
theorem Sending.next (hphase : DataPhase st a b k) (h : Sending st a b src n s0 index values j s) (hj : j < n)
    (hw : cursorWord s = .ok w) :
    ∃ t, exec (.tick (goodCycle (takingStatus s) 0) true) s = .next t ∧
      Sending st a b src n s0 index (values ++ [w]) (j + 1) t := by
  have hlen : s.txPos.toNat < s.txLen.toNat := by rw [h.pos, h.len]; exact hj
  have hpos : (s.txPos + 1).toNat = j + 1 := by
    rw [toNat_succ_of_lt (by have := s.txLen.isLt; omega), h.pos]
  rw [takingStatus_of_more hphase h hj]
  refine ⟨_, exec_tick_sends hphase h.awaits h.state h.dir h.response h.adv h.steady hlen hw, ?_⟩
  exact { h with
    awaits := { h.awaits with looks := Nat.zero_lt_of_lt h.awaits.looks }
    sent := h.sent.extend rfl (List.append_nil _) rfl
    adv := rfl
    steady := rfl
    pos := hpos }

/-! ### The phases of a write session -/

/-- The words of the block size and of DESC, in the order a write session sends them. -/
def descWordsOf (s0 : State) (j : Nat) : List Word := sizeWord s0 :: (List.range j).map (wordAt s0.desc)

/-- All words of a write session, `j` setpoints of them. -/
def curveWordsOf (s0 : State) (j : Nat) : List Word := descWordsOf s0 18 ++ (List.range j).map (wordAt s0.sp)

theorem descWordsOf_succ (s0 : State) (j : Nat) : descWordsOf s0 (j + 1) = descWordsOf s0 j ++ [wordAt s0.desc j] := by
  simp [descWordsOf, List.range_succ]

theorem curveWordsOf_succ (s0 : State) (j : Nat) : curveWordsOf s0 (j + 1) = curveWordsOf s0 j ++ [wordAt s0.sp j] := by
  simp [curveWordsOf, List.range_succ]

/-- `CurveInfo` with `j` words of DESC sent. -/
def SendsDesc (s0 : State) (j : Nat) : State → Prop :=
  Sending stCurveInfo 0x02 0x402 .fromDesc 18 s0 [iwBits s0.curveId] (descWordsOf s0 j) j

/-- `Setpoints` with `j` setpoints sent. -/
def SendsSp (s0 : State) (j : Nat) : State → Prop :=
  Sending stSetpoints 0x04 0x404 .fromSp s0.spCount.toNat s0 [iwBits s0.curveId] (curveWordsOf s0 j) j

/-- What a write session leaves that was carried to its end (R209, R211). -/
structure Delivered (s0 t : State) : Prop where
  state : t.state = stFinished
  done : t.xferState = .done
  success : t.result = .success
  underflow : t.underflowFlag = s0.underflowFlag
  desc : t.desc = s0.desc
  sp : t.sp = s0.sp
  spCount : t.spCount = s0.spCount
  sent : Sent s0.log t.log [iwBits s0.curveId] (curveWordsOf s0 s0.spCount.toNat)

theorem SendsDesc.next (h : SendsDesc s0 j s) (hj : j < 18) :
    ∃ t, exec (.tick (goodCycle (takingStatus s) 0) true) s = .next t ∧ SendsDesc s0 (j + 1) t := by
  have hw : cursorWord s = .ok (wordAt s0.desc j) := by
    rw [cursorWord_of_desc h.source (by rw [h.pos]; exact hj), h.pos, h.desc]
  rw [SendsDesc, descWordsOf_succ]
  exact Sending.next .curveInfo h hj hw

theorem SendsSp.next (hmax : s0.spCount.toNat ≤ s0.params.maxSetpoints) (h : SendsSp s0 j s)
    (hj : j < s0.spCount.toNat) :
    ∃ t, exec (.tick (goodCycle (takingStatus s) 0) true) s = .next t ∧ SendsSp s0 (j + 1) t := by
  have hw : cursorWord s = .ok (wordAt s0.sp j) := by
    rw [cursorWord_of_sp h.source (by rw [h.pos, h.params]; exact hj.trans_le hmax), h.pos, h.sp]
  rw [SendsSp, curveWordsOf_succ]
  exact Sending.next .setpoints h hj hw

/-- After the last setpoint the advance code ends the session. -/
theorem SendsSp.finish (h : SendsSp s0 s0.spCount.toNat s) :
    ∃ t, exec (.tick (goodCycle (takingStatus s) 0) true) s = .next t ∧ Delivered s0 t := by
  rw [takingStatus_of_all .setpoints h]
  exact ⟨_, exec_tick_finishes_write h.awaits h.state h.dir h.response, rfl, rfl, rfl, h.underflow, h.desc, h.sp,
    h.spCount, h.sent⟩

/-- After the last word of DESC the advance code enters `Setpoints`, and the first setpoint goes out. -/
theorem SendsDesc.enter (hcount : 1 ≤ s0.spCount.toNat) (hmax : s0.spCount.toNat ≤ s0.params.maxSetpoints)
    (h : SendsDesc s0 18 s) :
    ∃ t, exec (.tick (goodCycle (takingStatus s) 0) true) s = .next t ∧ SendsSp s0 1 t := by
  rw [takingStatus_of_all .curveInfo h]
  refine ⟨_, exec_tick_enters_setpoints_write h.awaits h.state h.dir h.response (by rw [h.spCount]; exact hcount)
    (by rw [h.params]; exact hcount.trans hmax), ?_⟩
  rw [SendsSp, curveWordsOf_succ, ← h.sp]
  exact { h.toUnderway with
    awaits := { h.awaits with looks := Nat.zero_lt_of_lt h.awaits.looks }
    sent := h.sent.extend rfl (List.append_nil _) (by simp [wordsTo, phaseControl, curveWordsOf])
    state := rfl
    adv := rfl
    steady := rfl
    source := rfl
    len := congrArg BitVec.toNat h.spCount
    pos := rfl }

/-- From `SendCommand` the advance code enters `CurveInfo`, and the first word of DESC goes out. -/
theorem Underway.enter (h : Underway s0 s [iwBits s0.curveId] [sizeWord s0]) (hst : s.state = stSendCommand) :
    ∃ t, exec (.tick (goodCycle (takingStatus s) 0) true) s = .next t ∧ SendsDesc s0 1 t := by
  rw [takingStatus_of_start (.inr hst)]
  refine ⟨_, exec_tick_enters_curveInfo_write h.awaits hst h.dir h.response, ?_⟩
  rw [SendsDesc, descWordsOf_succ, ← h.desc]
  exact { h with
    awaits := { h.awaits with looks := Nat.zero_lt_of_lt h.awaits.looks }
    sent := h.sent.extend rfl (List.append_nil _) rfl
    state := rfl
    adv := rfl
    steady := rfl
    source := rfl
    len := rfl
    pos := rfl }

end

/-! ### The start of a session -/

/-- A session right after its request was accepted, its lock free, with a look for the device. -/
structure Requested (s : State) : Prop where
  busy : s.xferState = .busy
  lock : s.lock = .free
  state : s.state = stInit
  idle : s.waitingForStatus = false
  response : s.bufferResponse = false
  looks : 1 ≤ s.params.timeoutCycles

theorem requested_of_session {s : State} (h : Session s) (hbusy : s.xferState = .busy) (hlock : s.lock = .free)
    (hst : s.state = stInit) (hwait : s.waitingForStatus = false) (hlooks : 1 ≤ s.params.timeoutCycles) :
    Requested s where
  busy := hbusy
  lock := hlock
  state := hst
  idle := hwait
  response := Bool.eq_false_of_not_eq_true fun hb => by
    obtain ⟨-, h | h⟩ := (h.response hbusy).1 hb <;> simp [hst, stInit, stCurveInfo, stSetpoints] at h
  looks := hlooks

section
variable {s : State}

theorem Requested.ask (h : Requested s) (w v : Word) : exec (.tick (goodCycle w v) true) s = .next (asked s) :=
  exec_tick_first h.busy h.lock h.state h.idle h.response ⟨rfl, rfl⟩ rfl

theorem Requested.awaiting (h : Requested s) : Awaiting (asked s) := ⟨h.busy, h.lock, rfl, h.looks⟩

theorem asked_sent (hd : s.dir = .write) : Sent s.log (asked s).log [] [] :=
  ⟨deletion s ++ [.write .controlWord s.params.initControlWord], by simp [asked],
    by simp [wordsTo, deletion, hd], by simp [wordsTo, deletion, hd]⟩

/-- The second tick of a write session: the index and the block size go out. -/
theorem Requested.command (h : Requested s) (hd : s.dir = .write) :
    ∃ t, exec (.tick (goodCycle (takingStatus (asked s)) 0) true) (asked s) = .next t ∧
      Underway s t [iwBits s.curveId] [sizeWord s] ∧ t.state = stSendCommand := by
  rw [takingStatus_of_start (s := asked s) (.inl h.state)]
  refine ⟨_, exec_tick_commands h.awaiting h.state h.response, ?_, rfl⟩
  exact {
    awaits := { h.awaiting with looks := h.looks }
    dir := hd
    response := h.response
    params := rfl
    desc := rfl
    sp := rfl
    spCount := rfl
    underflow := rfl
    sent := (asked_sent hd).extend (es := [.write .indexOut (iwBits s.curveId), .write .valueOut (sizeWord s),
      phaseControl 0 true (asked s)]) (List.append_assoc _ _ _) rfl rfl }

/-- A write session takes a tick to ask, one for the words of `SendCommand`, one for each word of DESC and of SP, and
one to end (R216). -/
theorem Requested.delivers (h : Requested s) (hd : s.dir = .write) (hcount : 1 ≤ s.spCount.toNat)
    (hmax : s.spCount.toNat ≤ s.params.maxSetpoints) : Reaches takingRun (s.spCount.toNat + 21) s (Delivered s) := by
  have hrun := ticksOf_takingRun
  have hfinish : ∀ u, SendsSp s s.spCount.toNat u → Reaches takingRun 1 u (Delivered s) := fun u hu =>
    have ⟨_, ht, hdelivered⟩ := hu.finish
    hrun.tick ht (hrun.here hdelivered)
  have hsp : ∀ u, SendsSp s 1 u → Reaches takingRun (s.spCount.toNat - 1 + 1) u (Delivered s) := fun u hu =>
    hrun.phase (fun _ _ hj hv => hv.next hmax hj) hfinish _ 1 u (by omega) hu
  have henter : ∀ u, SendsDesc s 18 u → Reaches takingRun (s.spCount.toNat - 1 + 1 + 1) u (Delivered s) := fun u hu =>
    have ⟨_, ht, hsends⟩ := hu.enter hcount hmax
    hrun.tick ht (hsp _ hsends)
  have hdesc : ∀ u, SendsDesc s 1 u → Reaches takingRun (17 + (s.spCount.toNat - 1 + 1 + 1)) u (Delivered s) :=
    fun u hu => hrun.phase (fun _ _ hj hv => hv.next hj) henter 17 1 u rfl hu
  obtain ⟨u, hu, hunderway, hst⟩ := h.command hd
  obtain ⟨v, hv, hsends⟩ := hunderway.enter hst
  have hlength : s.spCount.toNat + 21 = 17 + (s.spCount.toNat - 1 + 1 + 1) + 1 + 1 + 1 := by omega
  rw [hlength]
  exact hrun.tick (h.ask _ _) (hrun.tick hu (hrun.tick hv (hdesc v hsends)))

end

/-- Settles O58: `Requested.delivers`, and the words sent are `curveWordsOf`. -/
theorem writeSessionDeliversTheCurve : Obligations.WriteSessionDeliversTheCurve := by
  intro s hkept hsession hbusy hlock hd hst hwait hlooks
  obtain ⟨hnumber, -, hcount⟩ := hsession.described hbusy hd
  obtain ⟨t, hrun, h⟩ := (requested_of_session hsession hbusy hlock hst hwait hlooks).delivers hd hcount hkept.count
  obtain ⟨es, hlog, hindex, hvalues⟩ := h.sent
  have hadded : added s.log t.log = es := by rw [hlog]; exact List.drop_left
  refine ⟨t, hrun, h.state, h.done, h.success, h.underflow, h.desc, h.sp, h.spCount, ?_, ?_⟩
  · rw [hadded, hindex, iwBits_eq_ofNat]
  · rw [hadded, hvalues, curveWordsOf, descWordsOf, sizeWord_of_write hd, blockSize_eq_ofNat, hnumber, List.cons_append]

end Sys2Proof.Machine
end

section
/-! A whole read session (43_step_sequencer R216): the words received so far are an invariant of each data phase. -/

namespace Sys2Proof.Machine

/-! ### What the device answers -/

section
variable {s : State} {d : Nat → Word} {p : List Word}

theorem givingCycle_of_start (hst : s.state = stInit ∨ s.state = stSendCommand) :
    givingCycle d p s = goodCycle s.nextModeStatus 0 := if_pos hst

theorem givingCycle_of_curveInfo (hst : s.state = stCurveInfo) : givingCycle d p s =
    goodCycle (if s.rxCount.toNat < 17 then s.expectedStatus else s.nextModeStatus) (d s.rxCount.toNat) := by
  rw [givingCycle, if_neg (DataPhase.curveInfo.not_start hst), if_pos hst]

theorem givingCycle_of_setpoints (hst : s.state = stSetpoints) : givingCycle d p s =
    goodCycle (if s.spCount.toNat + 1 < p.length then s.expectedStatus else s.nextModeStatus)
      (p.getD s.spCount.toNat 0) := by
  rw [givingCycle, if_neg (DataPhase.setpoints.not_start hst),
    if_neg (by simp [hst, stSetpoints, stCurveInfo])]

end

/-! ### What has been received -/

/-- The first `j` words of the memory are these. -/
def WordsAre (m : Memory) (j : Nat) (word : Nat → Word) : Prop := ∀ k, k < j → wordAt m k = word k

theorem WordsAre.store {m : Memory} {j : Nat} {word : Nat → Word} (h : WordsAre m j word) (hwf : Memory.wf m = true) :
    WordsAre (storeWord m j (word j)) (j + 1) word := by
  intro k hk
  by_cases hkj : k = j
  · subst hkj
    exact wordAt_storeWord hwf
  · rw [wordAt_storeWord_other hwf hkj]
    exact h k (by omega)

/-- The bytes from `a` on read alike in both memories. -/
def SameFrom (a : Nat) (m n : Memory) : Prop := ∀ x, a ≤ x → readByte m x = readByte n x

theorem SameFrom.store {a j : Nat} {m n : Memory} {w : Word} (h : SameFrom a m n) (hwf : Memory.wf m = true)
    (hj : 4 * j + 4 ≤ a) : SameFrom a (storeWord m j w) n := fun x hx => by
  rw [readByte_storeWord_outside hwf (by omega)]
  exact h x hx

/-- A read session between two ticks, since the state `s0` right after its request. -/
structure Listening (s0 s : State) : Prop where
  awaits : Awaiting s
  dir : s.dir = .read
  params : s.params = s0.params
  descForm : Memory.wf s.desc = true
  spForm : Memory.wf s.sp = true
  logged : s0.log <+: s.log

/-- `CurveInfo` with `j` words of the descriptor received. -/
structure ReceivesDesc (s0 : State) (d : Nat → Word) (j : Nat) (s : State) : Prop extends Listening s0 s where
  state : s.state = stCurveInfo
  response : s.bufferResponse = true
  adv : s.nextModeStatus = 0x02 + bit 32 s.toggle
  steady : s.expectedStatus = 0x402 + bit 32 s.toggle
  target : s.rxTarget = .toDesc
  room : s.rxCap = 18
  count : s.rxCount.toNat = j
  words : WordsAre s.desc j d
  untouched : s.sp = s0.sp

/-- `Setpoints` with `j` of the setpoints `p` received. -/
structure ReceivesSp (s0 : State) (d : Nat → Word) (p : List Word) (j : Nat) (s : State) : Prop
    extends Listening s0 s where
  state : s.state = stSetpoints
  response : s.bufferResponse = true
  adv : s.nextModeStatus = 0x04 + bit 32 s.toggle
  steady : s.expectedStatus = 0x404 + bit 32 s.toggle
  target : s.rxTarget = .toPending
  count : s.spCount.toNat = j
  words : WordsAre s.desc 18 d
  setpoints : WordsAre s.sp j fun k => p.getD k 0
  beyond : SameFrom (4 * p.length) s.sp s0.sp

/-- What a read session leaves that was carried to its end (R209, R211). -/
structure Received (s0 : State) (d : Nat → Word) (p : List Word) (t : State) : Prop where
  state : t.state = stFinished
  done : t.xferState = .done
  success : t.result = .success
  count : t.spCount.toNat = p.length
  words : WordsAre t.desc 18 d
  setpoints : WordsAre t.sp p.length fun k => p.getD k 0
  beyond : SameFrom (4 * p.length) t.sp s0.sp
  pulsed : ∃ es, t.log = s0.log ++ es ++ [.projectionReq]

section
variable {s0 s : State} {d : Nat → Word} {p : List Word} {j : Nat}

/-- One exchange of `CurveInfo` stores one word of the descriptor. -/
theorem ReceivesDesc.next (h : ReceivesDesc s0 d j s) (hj : j < 17) :
    ∃ t, exec (.tick (givingCycle d p s) true) s = .next t ∧ ReceivesDesc s0 d (j + 1) t := by
  have hcount : (s.rxCount + 1).toNat = j + 1 := by rw [toNat_succ_of_lt (by rw [h.count]; omega), h.count]
  have hroom : s.rxCount.toNat < s.rxCap.toNat := by
    rw [h.count, h.room]
    exact hj.trans (by decide)
  have hdesc : s.rxCount.toNat < descWords := by rw [h.count, descWords]; omega
  have hcycle : givingCycle d p s = goodCycle s.expectedStatus (d j) := by
    rw [givingCycle_of_curveInfo h.state, if_pos (by rw [h.count]; exact hj), h.count]
  have hwords : WordsAre (storeWord s.desc s.rxCount.toNat (d j)) (j + 1) d := h.count ▸ h.words.store h.descForm
  rw [hcycle]
  refine ⟨_, exec_tick_receives_desc h.awaits h.state h.dir h.response h.adv h.steady h.target hroom hdesc, ?_⟩
  exact { h with
    awaits := { h.awaits with looks := Nat.zero_lt_of_lt h.awaits.looks }
    descForm := storeWord_wf h.descForm
    logged := h.logged.trans ⟨_, rfl⟩
    adv := rfl
    steady := rfl
    count := hcount
    words := hwords }

/-- The last word of the descriptor comes with the advance code, which enters `Setpoints`. -/
theorem ReceivesDesc.enter (h : ReceivesDesc s0 d 17 s) :
    ∃ t, exec (.tick (givingCycle d p s) true) s = .next t ∧ ReceivesSp s0 d p 0 t := by
  have hcycle : givingCycle d p s = goodCycle s.nextModeStatus (d 17) := by
    rw [givingCycle_of_curveInfo h.state, if_neg (by rw [h.count]; decide), h.count]
  rw [hcycle]
  refine ⟨_, exec_tick_enters_setpoints_read h.awaits h.state h.dir h.response h.target
    (BitVec.eq_of_toNat_eq h.count) h.room, ?_⟩
  exact { h.toListening with
    awaits := { h.awaits with looks := Nat.zero_lt_of_lt h.awaits.looks }
    descForm := storeWord_wf h.descForm
    logged := h.logged.trans ⟨_, rfl⟩
    state := rfl
    response := h.response
    adv := rfl
    steady := rfl
    target := rfl
    count := rfl
    words := h.words.store h.descForm
    setpoints := fun k hk => absurd hk (Nat.not_lt_zero k)
    beyond := fun x _ => by rw [h.untouched] }

theorem ReceivesSp.hasRoom (hmax : p.length ≤ s0.params.maxSetpoints) (h : ReceivesSp s0 d p j s) (hj : j < p.length) :
    s.spCount.toNat < s.params.maxSetpoints := by
  rw [h.count, h.params]
  exact hj.trans_le hmax

/-- What one more setpoint makes of SP. -/
theorem ReceivesSp.store (h : ReceivesSp s0 d p j s) (hj : j < p.length) :
    WordsAre (storeWord s.sp s.spCount.toNat (p.getD j 0)) (j + 1) (fun k => p.getD k 0) ∧
      SameFrom (4 * p.length) (storeWord s.sp s.spCount.toNat (p.getD j 0)) s0.sp := by
  rw [h.count]
  exact ⟨h.setpoints.store (word := fun k => p.getD k 0) h.spForm, h.beyond.store h.spForm (by omega)⟩

/-- One exchange of `Setpoints` stores one setpoint. -/
theorem ReceivesSp.next (hlength : p.length < 2 ^ 16) (hmax : p.length ≤ s0.params.maxSetpoints)
    (h : ReceivesSp s0 d p j s) (hj : j < p.length - 1) :
    ∃ t, exec (.tick (givingCycle d p s) true) s = .next t ∧ ReceivesSp s0 d p (j + 1) t := by
  have hcount : (s.spCount + 1).toNat = j + 1 := by rw [toNat_succ_of_lt (by rw [h.count]; omega), h.count]
  have hcycle : givingCycle d p s = goodCycle s.expectedStatus (p.getD j 0) := by
    rw [givingCycle_of_setpoints h.state, if_pos (by rw [h.count]; omega), h.count]
  obtain ⟨hwords, hbeyond⟩ := h.store (by omega)
  rw [hcycle]
  refine ⟨_, exec_tick_receives_setpoint h.awaits h.state h.dir h.response h.adv h.steady h.target
    (h.hasRoom hmax (by omega)), ?_⟩
  exact { h with
    awaits := { h.awaits with looks := Nat.zero_lt_of_lt h.awaits.looks }
    spForm := storeWord_wf h.spForm
    logged := h.logged.trans ⟨_, rfl⟩
    adv := rfl
    steady := rfl
    count := hcount
    setpoints := hwords
    beyond := hbeyond }

/-- The last setpoint comes with the advance code, which ends the session. -/
theorem ReceivesSp.finish (hlength : p.length < 2 ^ 16) (hmax : p.length ≤ s0.params.maxSetpoints)
    (hpos : 1 ≤ p.length) (h : ReceivesSp s0 d p (p.length - 1) s) :
    ∃ t, exec (.tick (givingCycle d p s) true) s = .next t ∧ Received s0 d p t := by
  have hlast : p.length - 1 + 1 = p.length := Nat.sub_add_cancel hpos
  have hcount : (s.spCount + 1).toNat = p.length := by rw [toNat_succ_of_lt (by rw [h.count]; omega), h.count, hlast]
  have hcycle : givingCycle d p s = goodCycle s.nextModeStatus (p.getD (p.length - 1) 0) := by
    rw [givingCycle_of_setpoints h.state, if_neg (by rw [h.count]; omega), h.count]
  obtain ⟨hwords, hbeyond⟩ := h.store (by omega)
  obtain ⟨es, hlog⟩ := h.logged
  rw [hcycle]
  refine ⟨_, exec_tick_finishes_read h.awaits h.state h.dir h.response h.target (h.hasRoom hmax (by omega)), ?_⟩
  exact ⟨rfl, rfl, rfl, hcount, h.words, hlast ▸ hwords, hbeyond, es, by rw [hlog]⟩

end

/-! ### The start of a read session -/

section
variable {s : State} {d : Nat → Word} {p : List Word}

/-- The second tick of a read session: the index and a size of 0 go out. -/
theorem Requested.summon (h : Requested s) (hd : s.dir = .read) (hdesc : Memory.wf s.desc = true)
    (hsp : Memory.wf s.sp = true) :
    ∃ t, exec (.tick (givingCycle d p (asked s)) true) (asked s) = .next t ∧ Listening s t ∧
      t.state = stSendCommand ∧ t.bufferResponse = false ∧ t.sp = s.sp := by
  rw [givingCycle_of_start (s := asked s) (.inl h.state)]
  refine ⟨_, exec_tick_commands h.awaiting h.state h.response, ?_, rfl, h.response, rfl⟩
  exact {
    awaits := { h.awaiting with looks := h.looks }
    dir := hd
    params := rfl
    descForm := hdesc
    spForm := hsp
    logged := ⟨deletion s ++ [.write .controlWord s.params.initControlWord, .write .indexOut (iwBits s.curveId),
      .write .valueOut (sizeWord s), phaseControl 0 true (asked s)], by simp [asked, commanded, sizeWord]⟩ }

/-- The third tick: `CurveInfo` is entered, reception into DESC is armed. -/
theorem Listening.enter {s0 : State} (h : Listening s0 s) (hst : s.state = stSendCommand)
    (hb : s.bufferResponse = false) (hsp : s.sp = s0.sp) :
    ∃ t, exec (.tick (givingCycle d p s) true) s = .next t ∧ ReceivesDesc s0 d 0 t := by
  rw [givingCycle_of_start (.inr hst)]
  refine ⟨_, exec_tick_enters_curveInfo_read h.awaits hst h.dir hb, ?_⟩
  exact { h with
    awaits := { h.awaits with looks := Nat.zero_lt_of_lt h.awaits.looks }
    logged := h.logged.trans ⟨_, rfl⟩
    state := rfl
    response := rfl
    adv := rfl
    steady := rfl
    target := rfl
    room := rfl
    count := rfl
    words := fun k hk => absurd hk (Nat.not_lt_zero k)
    untouched := hsp }

/-- A read session takes a tick to ask, one for `SendCommand`, one to enter `CurveInfo`, and one for each word of DESC
and of SP, the last of which ends it (R216). -/
theorem Requested.receives (h : Requested s) (hd : s.dir = .read) (hdesc : Memory.wf s.desc = true)
    (hsp : Memory.wf s.sp = true) (hpos : 1 ≤ p.length) (hlength : p.length < 2 ^ 16)
    (hmax : p.length ≤ s.params.maxSetpoints) : Reaches (givingRun d p) (p.length + 21) s (Received s d p) := by
  have hrun := ticksOf_givingRun d p
  have hfinish : ∀ u, ReceivesSp s d p (p.length - 1) u → Reaches (givingRun d p) 1 u (Received s d p) :=
    fun u hu =>
      have ⟨_, ht, hreceived⟩ := hu.finish hlength hmax hpos
      hrun.tick ht (hrun.here hreceived)
  have hsetpoints : ∀ u, ReceivesSp s d p 0 u → Reaches (givingRun d p) (p.length - 1 + 1) u (Received s d p) :=
    fun u hu => hrun.phase (fun _ _ hj hv => hv.next hlength hmax hj) hfinish _ 0 u (Nat.zero_add _) hu
  have henter : ∀ u, ReceivesDesc s d 17 u → Reaches (givingRun d p) (p.length - 1 + 1 + 1) u (Received s d p) :=
    fun u hu =>
      have ⟨_, ht, hreceives⟩ := hu.enter
      hrun.tick ht (hsetpoints _ hreceives)
  have hwords : ∀ u, ReceivesDesc s d 0 u →
      Reaches (givingRun d p) (17 + (p.length - 1 + 1 + 1)) u (Received s d p) :=
    fun u hu => hrun.phase (fun _ _ hj hv => hv.next hj) henter 17 0 u rfl hu
  obtain ⟨u, hu, hlistening, hst, hb, hspu⟩ := h.summon (d := d) (p := p) hd hdesc hsp
  obtain ⟨v, hv, hreceives⟩ := hlistening.enter (d := d) (p := p) hst hb hspu
  have htotal : p.length + 21 = 17 + (p.length - 1 + 1 + 1) + 1 + 1 + 1 := by omega
  have hask : exec (.tick (givingCycle d p s) true) s = .next (asked s) := by
    rw [givingCycle_of_start (.inl h.state)]
    exact h.ask _ _
  rw [htotal]
  exact hrun.tick hask (hrun.tick hu (hrun.tick hv (hwords v hreceives)))

end

/-- Settles O59: `Requested.receives`. -/
theorem readSessionReceivesTheCurve : Obligations.ReadSessionReceivesTheCurve := by
  intro s d p hkept hsession hbusy hlock hd hst hwait hlooks hpos hmax
  obtain ⟨-, -, -, -, -, -, -, hlimit⟩ := params_wf_iff.1 hkept.params
  have hstart := requested_of_session hsession hbusy hlock hst hwait hlooks
  obtain ⟨t, hrun, h⟩ := hstart.receives (d := d) (p := p) hd hkept.descForm hkept.spForm hpos (by omega) hmax
  obtain ⟨es, hlog⟩ := h.pulsed
  have hadded : added s.log t.log = es ++ [.projectionReq] := by rw [hlog, List.append_assoc]; exact List.drop_left
  refine ⟨t, hrun, h.state, h.done, h.success, h.count, h.words, fun k hk => ?_, h.beyond, ?_⟩
  · rw [List.getElem?_eq_getElem hk, ← List.getD_eq_getElem _ 0 hk, h.setpoints k hk]
  · rw [hadded, List.getLast?_concat]

end Sys2Proof.Machine
end

section
/-! The classifier (44_toggle_status_decode R236, R241 to R244): when a status word is of each class, over the bits and
over the number of the word. -/

namespace Sys2Proof.Machine

/-! ### The bytes of a status word as numbers (30_encoding R104) -/

theorem toNat_lowByte (w : Word) : (lowByte w).toNat = w.toNat % 256 := by
  simp [lowByte, BitVec.extractLsb'_toNat]

theorem toNat_codeByte (w : Word) : (codeByte w).toNat = w.toNat / 256 % 256 := by
  simp [codeByte, BitVec.extractLsb'_toNat, Nat.shiftRight_eq_div_pow]

theorem lowByte_eq_iff {v w : Word} : lowByte v = lowByte w ↔ v.toNat % 256 = w.toNat % 256 := by
  rw [← BitVec.toNat_inj, toNat_lowByte, toNat_lowByte]

theorem codeByte_eq_zero_iff {w : Word} : codeByte w = 0 ↔ w.toNat / 256 % 256 = 0 := by
  rw [← BitVec.toNat_inj, toNat_codeByte]
  rfl

section
variable {adv steady sw : Word}

/-! ### The four classes -/

/-- The rule of R236 over the number of the word. -/
theorem classOf_eq_numeric : classOf adv steady sw =
    if sw = adv then .adv
    else if sw = steady then .steady
    else if sw.toNat % 256 = steady.toNat % 256 ∧ sw.toNat / 256 % 256 ≠ 0 then .err
    else .nomatch := by
  simp only [classOf, lowByte_eq_iff, ne_eq, codeByte_eq_zero_iff]

theorem classOf_adv_iff : classOf adv steady sw = .adv ↔ sw = adv := by
  rw [classOf]
  split_ifs with hadv <;> simp [hadv]

theorem classOf_steady_iff : classOf adv steady sw = .steady ↔ sw ≠ adv ∧ sw = steady := by
  rw [classOf]
  split_ifs with hadv hsteady
  · simp [hadv]
  · exact iff_of_true rfl ⟨hadv, hsteady⟩
  · simp [hsteady]
  · simp [hsteady]

theorem classOf_err_iff : classOf adv steady sw = .err ↔
    sw ≠ adv ∧ sw ≠ steady ∧ lowByte sw = lowByte steady ∧ codeByte sw ≠ 0 := by
  rw [classOf]
  split_ifs with hadv hsteady herr
  · simp [hadv]
  · simp [hsteady]
  · exact iff_of_true rfl ⟨hadv, hsteady, herr⟩
  · exact iff_of_false nofun fun ⟨_, _, h⟩ => herr h

theorem classOf_nomatch_iff : classOf adv steady sw = .nomatch ↔
    sw ≠ adv ∧ sw ≠ steady ∧ (lowByte sw = lowByte steady → codeByte sw = 0) := by
  rw [classOf]
  split_ifs with hadv hsteady herr
  · simp [hadv]
  · simp [hsteady]
  · exact iff_of_false nofun fun ⟨_, _, hzero⟩ => herr.2 (hzero herr.1)
  · exact iff_of_true rfl ⟨hadv, hsteady, fun hlow => by_contra fun hcode => herr ⟨hlow, hcode⟩⟩

/-- A word that answers another exchange: its low byte is that of neither code. -/
theorem classOf_nomatch_of_lowByte_ne (hadv : lowByte sw ≠ lowByte adv) (hsteady : lowByte sw ≠ lowByte steady) :
    classOf adv steady sw = .nomatch :=
  classOf_nomatch_iff.2 ⟨fun h => hadv (h ▸ rfl), fun h => hsteady (h ▸ rfl), fun h => absurd h hsteady⟩

/-! ### The classes of `Init` and `SendCommand`, whose two codes are one byte (R241, R242) -/

theorem classOf_steady_of_same : classOf adv adv sw ≠ .steady := fun h =>
  have ⟨hne, heq⟩ := classOf_steady_iff.1 h
  hne heq

theorem classOf_err_iff_of_same (hadv : adv.toNat < 256) :
    classOf adv adv sw = .err ↔ sw.toNat % 256 = adv.toNat ∧ sw.toNat / 256 % 256 ≠ 0 := by
  rw [classOf_err_iff, lowByte_eq_iff, ne_eq (codeByte sw), codeByte_eq_zero_iff, ne_eq, ← BitVec.toNat_inj]
  omega

theorem classOf_nomatch_iff_of_same (hadv : adv.toNat < 256) : classOf adv adv sw = .nomatch ↔
    sw ≠ adv ∧ (sw.toNat % 256 = adv.toNat → sw.toNat / 256 % 256 = 0) := by
  rw [classOf_nomatch_iff, lowByte_eq_iff, codeByte_eq_zero_iff, ← and_assoc, and_self, Nat.mod_eq_of_lt hadv]

/-! ### The classes of a data phase, whose codes are a byte `n` and `n + 0x400` (R243, R244) -/

section
variable {n : Nat} (hn : n < 256) (hadv : adv.toNat = n) (hsteady : steady.toNat = n + 0x400)
include hn hadv hsteady

omit hn hsteady in
theorem classOf_adv_iff_of_data : classOf adv steady sw = .adv ↔ sw.toNat = n := by
  rw [classOf_adv_iff, ← BitVec.toNat_inj, hadv]

omit hn in
theorem classOf_steady_iff_of_data : classOf adv steady sw = .steady ↔ sw.toNat = n + 0x400 := by
  rw [classOf_steady_iff, ne_eq, ← BitVec.toNat_inj, ← BitVec.toNat_inj, hadv, hsteady]
  omega

theorem classOf_err_iff_of_data : classOf adv steady sw = .err ↔
    sw.toNat % 256 = n ∧ sw.toNat / 256 % 256 ≠ 0 ∧ sw.toNat ≠ n + 0x400 := by
  rw [classOf_err_iff, lowByte_eq_iff, ne_eq (codeByte sw), codeByte_eq_zero_iff, ne_eq, ne_eq, ← BitVec.toNat_inj,
    ← BitVec.toNat_inj, hadv, hsteady]
  omega

theorem classOf_nomatch_of_data_otherLow (hlow : sw.toNat % 256 ≠ n) : classOf adv steady sw = .nomatch := by
  refine classOf_nomatch_of_lowByte_ne (fun h => hlow ?_) fun h => hlow ?_
  · rw [lowByte_eq_iff.1 h, hadv, Nat.mod_eq_of_lt hn]
  · rw [lowByte_eq_iff.1 h, hsteady]
    omega

/-- Of the words with the low byte of the codes only those with no code byte and another upper half match nothing. -/
theorem classOf_nomatch_iff_of_data_sameLow (hlow : sw.toNat % 256 = n) : classOf adv steady sw = .nomatch ↔
    sw.toNat / 256 % 256 = 0 ∧ sw.toNat / 65536 ≠ 0 := by
  rw [classOf_nomatch_iff, lowByte_eq_iff, codeByte_eq_zero_iff, ne_eq, ne_eq, ← BitVec.toNat_inj,
    ← BitVec.toNat_inj, hadv, hsteady]
  omega

end

/-- The number of a code with its toggle (30_encoding R105). -/
theorem toNat_add_bit {b : Word} (hb : b.toNat < 2 ^ 31) (t : Bool) : (b + bit 32 t).toNat = b.toNat + t.toNat := by
  have hbit : (bit 32 t).toNat = t.toNat := by cases t <;> rfl
  have ht := t.toNat_lt
  rw [BitVec.toNat_add, hbit]
  omega

end

/-- Settles O12: CLASSIFY answers `classOf`, by the numbers of `classOf_eq_numeric`. -/
theorem classifyIsTheRule : Obligations.ClassifyIsTheRule := fun s _ =>
  congrArg (fun k => Host.Outcome.next (answering (.sw k) s)) classOf_eq_numeric

/-- Settles O13: the two phases with one code, and the data phases with the byte `b + t`. -/
theorem classesOfEveryStatusWord : Obligations.ClassesOfEveryStatusWord := by
  refine ⟨fun sw e he => ?_, fun sw t b hb => ?_⟩
  · have hbyte : e.toNat < 256 := by obtain rfl | rfl := he <;> decide
    exact ⟨classOf_adv_iff, classOf_steady_of_same, classOf_err_iff_of_same hbyte,
      classOf_nomatch_iff_of_same hbyte⟩
  · have hsmall : b.toNat ≤ 4 := by obtain rfl | rfl := hb <;> decide
    have hn : b.toNat + t.toNat < 256 := by have := t.toNat_lt; omega
    have hadv : (b + bit 32 t).toNat = b.toNat + t.toNat := toNat_add_bit (by omega) t
    have hbase : (b + 0x400).toNat = b.toNat + 0x400 := by rw [BitVec.toNat_add]; simp; omega
    have hsteady : (b + 0x400 + bit 32 t).toNat = b.toNat + t.toNat + 0x400 := by
      rw [toNat_add_bit (by omega), hbase]
      omega
    rw [Nat.add_right_comm b.toNat 0x400]
    exact ⟨classOf_adv_iff_of_data hadv, classOf_steady_iff_of_data hadv hsteady,
      classOf_err_iff_of_data hn hadv hsteady, classOf_nomatch_of_data_otherLow hn hadv hsteady,
      classOf_nomatch_iff_of_data_sameLow hn hadv hsteady⟩

end Sys2Proof.Machine
end

section
/-! The status-word rows (44_toggle_status_decode R237 to R244; log 11), and the toggle with the arms that move it (R230
to R233). -/

namespace Sys2Proof.Machine

section
variable {s : State} {st : BitVec 3} {sw : Word}

/-! ### Class ADV (R237) -/

theorem swHere_of_class {k : SwClass} (hwait : s.waitingForStatus = true) (hst : s.state = st)
    (hclass : classify sw s = k) : swHere st k sw s = true := by
  simp [swHere, hwait, hst, hclass]

theorem settle_swAdv (hwait : s.waitingForStatus = true) (hst : s.state = st) (hadv : s.nextModeStatus = sw) :
    settle s (swAdv st sw s) = .next { s with state := succState st, changedMode := true } := by
  rw [swAdv, if_pos (swHere_of_class hwait hst (classOf_adv_iff.2 hadv.symm)), advance, hst, settle_go]

/-! ### Class NOMATCH (R239) -/

theorem settle_swNomatch : settle s (swNomatch st sw s) = .next s := by
  unfold swNomatch
  split
  · exact settle_ended s s
  · exact settle_go s s

/-! ### Class ERR (R240) -/

/-- An error word of a phase with the codes `echo` and `echo + 256 * k`: any code byte but 0, not the steady code. -/
theorem classOf_swBits_err {u : Half} {c k echo : Byte} (hc : c ≠ 0) (hsteady : ¬ (u = 0 ∧ c = k)) :
    classOf (swBits 0 0 echo) (swBits 0 k echo) (swBits u c echo) = .err := by
  refine classOf_err_iff.2 ⟨fun h => hc ?_, fun h => hsteady ⟨?_, ?_⟩, by simp, by simpa using hc⟩
  · simpa using congrArg codeByte h
  · simpa using congrArg upper h
  · simpa using congrArg codeByte h

theorem settle_swErr {u : Half} {c k echo : Byte} (hwait : s.waitingForStatus = true) (hst : s.state = st)
    (hadv : s.nextModeStatus = swBits 0 0 echo) (hexpected : s.expectedStatus = swBits 0 k echo) (hc : c ≠ 0)
    (hsteady : ¬ (u = 0 ∧ c = k)) :
    settle s (swErr st (swBits u c echo) s) = .next (failed .deviceError c s) := by
  have hclass : classify (swBits u c echo) s = .err := by
    rw [classify, hadv, hexpected]
    exact classOf_swBits_err hc hsteady
  rw [swErr, if_pos (swHere_of_class hwait hst hclass), codeByte_swBits, raiseFail, settle_ended]

/-- The codes of the data phases as words with an echo byte (30_encoding R104, R105). -/
theorem curveInfoCodes_eq_swBits (t : Bool) :
    0x02 + bit 32 t = swBits 0 0 (echoOf 0x02 t) ∧ 0x402 + bit 32 t = swBits 0 4 (echoOf 0x02 t) := by
  cases t <;> decide

theorem setpointsCodes_eq_swBits (t : Bool) :
    0x04 + bit 32 t = swBits 0 0 (echoOf 0x04 t) ∧ 0x404 + bit 32 t = swBits 0 4 (echoOf 0x04 t) := by
  cases t <;> decide

end

/-- Settles O9: the row of each phase is `settle_swAdv`. -/
theorem statusAdvanceRowsAdvance : Obligations.StatusAdvanceRowsAdvance := fun _ hwait =>
  ⟨settle_swAdv hwait, settle_swAdv hwait, fun _ => settle_swAdv hwait, fun _ => settle_swAdv hwait⟩

/-- Settles O11: the row of each phase is `settle_swErr`, whose code of the first two phases carries no code byte. -/
theorem statusErrorRowsFailWithTheCode : Obligations.StatusErrorRowsFailWithTheCode := fun _ _ _ hwait hc =>
  ⟨fun hst hadv hexpected => settle_swErr (k := 0) hwait hst hadv hexpected hc fun h => hc h.2,
    fun hst hadv hexpected => settle_swErr (k := 0) hwait hst hadv hexpected hc fun h => hc h.2,
    fun t hsteady hst hadv hexpected =>
      have ⟨ha, hb⟩ := curveInfoCodes_eq_swBits t
      settle_swErr hwait hst (hadv.trans ha) (hexpected.trans hb) hc hsteady,
    fun t hsteady hst hadv hexpected =>
      have ⟨ha, hb⟩ := setpointsCodes_eq_swBits t
      settle_swErr hwait hst (hadv.trans ha) (hexpected.trans hb) hc hsteady⟩

/-- Settles O10: the steady rows are nothing; the other rows are `settle_swNomatch`. -/
theorem steadyAndUnmatchedWordsWriteNothing : Obligations.SteadyAndUnmatchedWordsWriteNothing := fun _ _ _ =>
  ⟨rfl, rfl, rfl, rfl, settle_swNomatch, settle_swNomatch, settle_swNomatch, settle_swNomatch⟩

/-! ### The toggle (R230 to R233) -/

section
variable {s : State}

theorem stepCurveinfo_flips (hst : s.state = stCurveInfo) :
    ∃ t, exec .stepCurveinfo s = .next t ∧ t.toggle = !s.toggle := by
  rw [exec_stepCurveinfo hst]
  obtain ⟨-, -, e⟩ | ⟨-, -, e⟩ | ⟨-, e⟩ := armCurveinfo_cases s <;> rw [e] <;> exact ⟨_, rfl, rfl⟩

theorem stepSetpoints_clears_on_entry (hst : s.state = stSetpoints) (hc : s.changedMode = true) :
    ∃ t, exec .stepSetpoints s = .next t ∧ t.toggle = false := by
  rw [exec_stepSetpoints hst]
  obtain ⟨-, e⟩ | ⟨-, -, e⟩ | e := armSetpoints_entry_cases hc <;> rw [e] <;> exact ⟨_, rfl, rfl⟩

theorem stepSetpoints_flips_on_reentry (hst : s.state = stSetpoints) (hc : s.changedMode = false) :
    ∃ t, exec .stepSetpoints s = .next t ∧ t.toggle = !s.toggle := by
  rw [exec_stepSetpoints hst]
  obtain ⟨-, e⟩ | ⟨-, -, e⟩ | ⟨-, -, e⟩ | e := armSetpoints_reentry_cases hc <;> rw [e] <;> exact ⟨_, rfl, rfl⟩

end

/-- Settles O28: the four rows, `commanded`, every run of STEP.CURVEINFO, and STEP.SETPOINTS entered and re-entered. -/
theorem toggleRowsAndTheirArms : Obligations.ToggleRowsAndTheirArms := by
  intro s
  refine ⟨rfl, rfl, rfl, rfl, fun hst => ⟨commanded s, ?_, rfl⟩, stepCurveinfo_flips, fun hst => ?_⟩
  · rw [exec_stepSendcmd hst, armSendcmd_true_true, settle_go]
  · cases hc : s.changedMode with
    | true => exact stepSetpoints_clears_on_entry hst hc
    | false => exact stepSetpoints_flips_on_reentry hst hc

end Sys2Proof.Machine
end

section
/-! A look that matches nothing, and the look after the last (44_toggle_status_decode R239, 46_timeout_error R271): the
step ends in part 2. -/

namespace Sys2Proof.Machine

section
variable {s t : State} {c : Cycle} {w : Word}

theorem part2_of_nomatch (hwait : s.waitingForStatus = true) (hlooks : s.timeoutCtr.toNat < s.params.timeoutCycles)
    (hclass : classify w s = .nomatch) : part2 w s = .ended { s with timeoutCtr := s.timeoutCtr + 1 } := by
  have hcounted : classify w { s with timeoutCtr := s.timeoutCtr + 1 } = .nomatch := hclass
  rw [part2_of_looks hwait hlooks, actOnStatus, hcounted]

/-- With no look left the status word is not looked at. -/
theorem part2_of_noLooks (hwait : s.waitingForStatus = true) (hlooks : s.params.timeoutCycles ≤ s.timeoutCtr.toNat)
    (hwidth : s.timeoutCtr.toNat + 1 < 2 ^ 32) :
    part2 w s = .ended (failed .timeout 0 { s with timeoutCtr := s.timeoutCtr + 1 }) := by
  have hnext : (s.timeoutCtr + 1).toNat = s.timeoutCtr.toNat + 1 := toNat_succ_of_lt hwidth
  obtain ⟨hidle, -⟩ | ⟨-, -, e⟩ | ⟨-, hleft, -⟩ := part2_cases w s
  · simp [hwait] at hidle
  · exact e
  · omega

/-- A tick whose step ends in part 2. -/
theorem exec_tick_of_part2_ended (hbusy : s.xferState = .busy) (hlock : s.lock = .free) (hreads : readsOk c)
    (hpart2 : part2 c.status (clearChanged (setLock .stepped s)) = .ended t) (ht : t.lock = .stepped) :
    exec (.tick c true) s = .next (setLock .free t) := by
  rw [exec_tick_of_free hbusy hlock, stepParts, regReads_of_ok hreads, andThen_go, hpart2, andThen_ended,
    endTick_ended ht]

end

/-- Settles O44: a tick whose step ends in part 2, by the word or by the counter. -/
theorem skippedAndExpiredLooks : Obligations.SkippedAndExpiredLooks := by
  intro s c hbusy hlock hwait hreads
  refine ⟨fun hlooks _ hclass => ?_, fun hlooks hwidth => ?_⟩
  · rw [exec_tick_of_part2_ended hbusy hlock hreads
      (part2_of_nomatch (s := clearChanged (setLock .stepped s)) hwait hlooks hclass) rfl, ← hlock]
    rfl
  · rw [exec_tick_of_part2_ended hbusy hlock hreads
      (part2_of_noLooks (s := clearChanged (setLock .stepped s)) hwait hlooks hwidth) rfl, ← hlock]
    rfl

end Sys2Proof.Machine
end

section
/-! Stale answers (44_toggle_status_decode R245). A step that writes the control word has advanced its phase or flipped
the toggle of a data phase; so the low byte of the codes is another, and the answers to the exchange before match
nothing. -/

namespace Sys2Proof.Machine

/-! ### The parts before the control word -/

/-- Events with no control word among them. -/
def noControl : Language OutEvent := fun l => wordsTo .controlWord l = []

theorem one_le_noControl : (1 : Language OutEvent) ≤ noControl := fun _ hl => (Language.mem_one _).1 hl ▸ rfl

theorem mul_le_noControl {L M : Language OutEvent} (hL : L ≤ noControl) (hM : M ≤ noControl) : L * M ≤ noControl := by
  rintro _ ⟨l, hl, m, hm, rfl⟩
  have hwords : wordsTo .controlWord l ++ wordsTo .controlWord m = [] :=
    List.append_eq_nil_iff.2 ⟨hL hl, hM hm⟩
  exact (wordsTo_append _ l m).trans hwords

theorem atMostOne_le_noControl {P : OutEvent → Prop} (h : ∀ e, P e → [e] ∈ noControl) : atMostOne P ≤ noControl := by
  rintro _ (rfl | ⟨e, he, rfl⟩)
  · exact rfl
  · exact h e he

theorem deletePulse_le_noControl (s : State) : deletePulse s ≤ noControl :=
  atMostOne_le_noControl fun _ ⟨_, he⟩ => he ▸ rfl

theorem indexWrite_le_noControl (s : State) : indexWrite s ≤ noControl :=
  atMostOne_le_noControl fun _ he => he ▸ rfl

theorem valueWrite_le_noControl : portWrite .valueOut ≤ noControl :=
  atMostOne_le_noControl fun _ ⟨_, he⟩ => he ▸ rfl

theorem projectionPulse_le_noControl : projectionPulse ≤ noControl :=
  atMostOne_le_noControl fun _ he => he ▸ rfl

section
variable {s u : State} {x : Flow} {f : State → Flow} {P Q : State → Prop} {c : Cycle}

theorem andThen_go_self (x : Flow) : x.andThen .go = x := by
  cases x <;> rfl

theorem part4_emits_noControl : (part4 c s).Emits s noControl := by
  unfold part4
  split_ifs
  · exact emits_mono (deletePulse_le_noControl s) emits_armInit
  · exact emits_mono (mul_le_noControl (indexWrite_le_noControl s) valueWrite_le_noControl) (emits_armSendcmd _ _)
  · exact emits_mono one_le_noControl emits_armCurveinfo
  · exact emits_mono one_le_noControl emits_armSetpoints
  · rw [← andThen_go_self (armFinished s)]
    exact emits_mono projectionPulse_le_noControl (emits_armFinished_andThen _)
  · exact emits_raiseFail _ _

/-- Of a part of a step and all that follows it: where a control word is written the step goes on to its end, with
`P`. -/
def Flow.Announces (s : State) (P : State → Prop) : Flow → Prop
  | .go u => u.xferState = s.xferState ∧ P u
  | .ended u => wordsTo .controlWord u.log = wordsTo .controlWord s.log
  | .abandon l => wordsTo .controlWord l = wordsTo .controlWord s.log
  | .fault _ => True

/-- Where the words are counted from matters only by the control words there. -/
theorem announces_of_sameWords (hxfer : u.xferState = s.xferState)
    (hwords : wordsTo .controlWord u.log = wordsTo .controlWord s.log) (hx : x.Announces u P) : x.Announces s P := by
  cases x with
  | go v => exact ⟨hx.1.trans hxfer, hx.2⟩
  | ended v => exact Eq.trans hx hwords
  | abandon l => exact Eq.trans hx hwords
  | fault e => trivial

theorem wordsTo_of_noControl {l m k : List OutEvent} (hm : m ∈ noControl) (hk : k = l ++ m) :
    wordsTo .controlWord k = wordsTo .controlWord l := by
  rw [hk, wordsTo_append, show wordsTo .controlWord m = [] from hm, List.append_nil]

/-- A part that writes no control word hands over what it leads to. -/
theorem announces_andThen (hemits : x.Emits s noControl) (hleads : x.Leads P fun _ => True)
    (hf : ∀ u, P u → (f u).Announces u Q) : (x.andThen f).Announces s Q := by
  cases x with
  | go u =>
    obtain ⟨hsame, l, hl, hlog⟩ := hemits
    exact announces_of_sameWords hsame.xferState (wordsTo_of_noControl hl hlog) (hf u hleads)
  | ended u =>
    obtain ⟨-, hlog | ⟨-, l, hl, hlog⟩⟩ := hemits
    · exact congrArg (wordsTo .controlWord) hlog
    · exact wordsTo_of_noControl hl hlog
  | abandon k =>
    obtain ⟨l, hl, hlog⟩ := hemits
    exact wordsTo_of_noControl hl hlog
  | fault e => trivial

theorem settle_announces {s0 t : State} (hx : x.Announces s P) (h : settle s0 x = .next t) :
    wordsTo .controlWord t.log = wordsTo .controlWord s.log ∨ t.xferState = s.xferState ∧ P t := by
  obtain rfl | rfl | ⟨l, rfl, rfl⟩ := settle_next h
  · exact .inr hx
  · exact .inl hx
  · exact .inl hx

end

/-! ### The phase and the toggle through a step -/

/-- Part 2 lets the step go on from the phase `st`: the phase advances, or a data phase is re-entered. -/
inductive GoesOn (st : BitVec 3) (tog : Bool) (u : State) : Prop
  | advances (state : u.state = succState st)
  | reenters (data : st = stCurveInfo ∨ st = stSetpoints) (state : u.state = st) (changed : u.changedMode = false)
    (toggle : u.toggle = tog)

/-- The exchange is another than that of the phase `st` with the toggle `tog`. -/
inductive Renewed (st : BitVec 3) (tog : Bool) (u : State) : Prop
  | advances (state : u.state = succState st)
  | flips (data : st = stCurveInfo ∨ st = stSetpoints) (state : u.state = st) (toggle : u.toggle = !tog)

section
variable {s t u v : State} {c : Cycle} {st : BitVec 3} {tog : Bool} {w : Word}

theorem GoesOn.congr (h : GoesOn st tog u) (hst : v.state = u.state) (hc : v.changedMode = u.changedMode)
    (htog : v.toggle = u.toggle) : GoesOn st tog v := by
  cases h with
  | advances h => exact .advances (hst.trans h)
  | reenters hdata h hchanged htoggle => exact .reenters hdata (hst.trans h) (hc.trans hchanged) (htog.trans htoggle)

theorem Renewed.congr (h : Renewed st tog u) (hst : v.state = u.state) (htog : v.toggle = u.toggle) :
    Renewed st tog v := by
  cases h with
  | advances h => exact .advances (hst.trans h)
  | flips hdata h htoggle => exact .flips hdata (hst.trans h) (htog.trans htoggle)

theorem phase_cases (h : st.toNat ≤ 3) :
    st = stInit ∨ st = stSendCommand ∨ st = stCurveInfo ∨ st = stSetpoints := by
  revert st
  decide

/-- Only the data phases have a steady code: elsewhere the two codes are one (R241, R242). -/
theorem dataPhase_of_steady (h : Session s) (hbusy : s.xferState = .busy) (hwait : s.waitingForStatus = true)
    (hclass : classify w s = .steady) : s.state = stCurveInfo ∨ s.state = stSetpoints := by
  have hcodes : s.expectedStatus ≠ s.nextModeStatus :=
    have ⟨hne, heq⟩ := classOf_steady_iff.1 hclass
    heq ▸ hne
  obtain hst | hst | hst | hst := phase_cases (h.busy hbusy).1
  · obtain ⟨hadv, hsteady⟩ := h.codesInit hbusy hst hwait
    exact absurd (hsteady.trans hadv.symm) hcodes
  · obtain ⟨-, hadv, hsteady⟩ := h.codesSend hbusy hst
    exact absurd (hsteady.trans hadv.symm) hcodes
  · exact .inl hst
  · exact .inr hst

theorem leads_part2_goesOn (h : Session s) (hbusy : s.xferState = .busy) (hwait : s.waitingForStatus = true)
    (hc : s.changedMode = false) : (part2 w s).Leads (GoesOn s.state s.toggle) fun _ => True := by
  obtain ⟨hidle, -⟩ | ⟨-, -, e⟩ | ⟨-, -, e⟩ := part2_cases w s
  · simp [hwait] at hidle
  · rw [e]; trivial
  · rw [e]
    obtain ⟨-, e⟩ | ⟨hsteady, e⟩ | ⟨-, e⟩ | ⟨-, e⟩ :=
      actOnStatus_cases w { s with timeoutCtr := s.timeoutCtr + 1 } <;> rw [e]
    · exact .advances rfl
    · exact .reenters (dataPhase_of_steady h hbusy hwait hsteady) rfl hc rfl
    · trivial
    · trivial

theorem leads_receive_goesOn (h : GoesOn st tog u) :
    (receive w u).Leads (GoesOn st tog) fun _ => True := by
  obtain ⟨-, e⟩ | ⟨-, -, -, e⟩ | ⟨-, -, -, -, e⟩ | ⟨-, -, -, -, e⟩ | ⟨-, -, e⟩ := receive_cases w u <;> rw [e]
  · exact h
  · trivial
  · exact h.congr rfl rfl rfl
  · trivial
  · exact h.congr rfl rfl rfl

/-- The arm of a data phase re-entered flips the toggle, with whatever comes beside (R231, R233). -/
theorem leads_part4_renewed (h : GoesOn st tog u) : (part4 c u).Leads (Renewed st tog) fun _ => True := by
  cases h with
  | advances hst =>
    exact leads_mono (keepsPhase_part4 c) (fun v (hv : v.state = u.state) => .advances (hv.trans hst))
      fun _ _ => trivial
  | reenters hdata hst hc htog =>
    have hflip : (!u.toggle) = !tog := congrArg _ htog
    obtain hcurve | hset := hdata
    · rw [part4_of_curveInfo (hst.trans hcurve), armCurveinfo_of_reentry hc]
      exact .flips (.inl hcurve) hst hflip
    · rw [part4_of_setpoints (hst.trans hset)]
      obtain ⟨-, e⟩ | ⟨-, -, e⟩ | ⟨-, -, e⟩ | e := armSetpoints_reentry_cases hc <;> rw [e]
      · exact .flips (.inr hset) hst hflip
      · exact .flips (.inr hset) hst hflip
      · exact .flips (.inr hset) hst hflip
      · trivial

theorem leads_part5_renewed (h : Renewed st tog u) : (part5 c u).Leads (Renewed st tog) fun _ => True := by
  unfold part5
  split
  · obtain ⟨-, e⟩ | ⟨-, w, -, -, e⟩ | ⟨-, w, -, -, e⟩ | ⟨-, f, -, e⟩ := sendNext_cases c.valueWr u <;> rw [e]
    · exact h.congr rfl rfl
    · exact h.congr rfl rfl
    · trivial
    · trivial
  · exact h

theorem announces_emitControl (ok : Bool) (h : Renewed st tog u) :
    (emitControl ok u).Announces u (Renewed st tog) := by
  obtain ⟨-, e⟩ | ⟨w, -, -, e⟩ | ⟨w, -, -, e⟩ := emitControl_cases ok u <;> rw [e]
  · exact ⟨rfl, h⟩
  · exact ⟨rfl, h.congr rfl rfl⟩
  · exact rfl

theorem announces_stepParts (h : Session s) (hbusy : s.xferState = .busy) (hwait : s.waitingForStatus = true) :
    (stepParts c s).Announces s (Renewed s.state s.toggle) :=
  announces_of_sameWords (u := clearChanged s) rfl rfl <|
    announces_andThen (emits_mono one_le_noControl (emits_regReads c))
      (leads_regReads (P := fun u => u = clearChanged s) rfl) fun _ hu =>
    announces_andThen (emits_mono one_le_noControl (emits_part2 _))
      (hu ▸ leads_part2_goesOn (s := clearChanged s) { h with } hbusy hwait rfl) fun _ hu =>
    announces_andThen (emits_mono one_le_noControl (emits_receive _)) (leads_receive_goesOn hu) fun _ hu =>
    announces_andThen part4_emits_noControl (leads_part4_renewed hu) fun _ hu =>
    announces_andThen (emits_mono valueWrite_le_noControl (emits_part5 c)) (leads_part5_renewed hu) fun _ hu =>
    announces_emitControl _ hu

/-! ### STEP and TICK -/

/-- STEP and TICK run one step under the lock, or move the lock alone. -/
theorem exec_brings_cases {i : Instr} (hi : brings c i) (h : exec i s = .next t) :
    (∃ l, t = setLock l s) ∨
    ∃ u l, s.xferState = .busy ∧ settle (setLock .stepped s) (stepParts c (setLock .stepped s)) = .next u ∧
      t = setLock l u := by
  have hgiveBack : ∀ u, ∃ l, giveBack u = setLock l u := fun u =>
    (giveBack_cases u).elim (fun ⟨_, e⟩ => ⟨_, e⟩) fun ⟨_, e⟩ => ⟨u.lock, e⟩
  obtain rfl | ⟨granted, rfl⟩ := hi
  · have hstep : stepOnce c s = .next t := h
    obtain ⟨hbusy, -, e⟩ | ⟨-, e⟩ := stepOnce_cases c s <;> rw [e] at hstep
    · exact .inr ⟨t, t.lock, hbusy, hstep, rfl⟩
    · exact .inl ⟨s.lock, (Host.Outcome.next.inj hstep).symm⟩
  · have htick : execTick c granted s = .next t := h
    obtain ⟨-, e⟩ | ⟨hbusy, -, -, e⟩ | ⟨-, -, -, e⟩ | ⟨-, -, e⟩ := execTick_cases c granted s <;> rw [e] at htick
    · exact .inl ⟨s.lock, (Host.Outcome.next.inj htick).symm⟩
    · cases hrun : runStep c (setLock .held s) with
      | next u =>
        rw [hrun, afterStep_next] at htick
        obtain ⟨l, hl⟩ := hgiveBack u
        exact .inr ⟨u, l, hbusy, hrun, (Host.Outcome.next.inj htick).symm.trans hl⟩
      | fault e => rw [hrun] at htick; cases htick
      | refused r => rw [hrun] at htick; cases htick
    · exact .inl ⟨_, (Host.Outcome.next.inj htick).symm⟩
    · cases htick

theorem session_of_brings {i : Instr} (hi : brings c i) (h : Session s) (hexec : exec i s = .next t) : Session t := by
  obtain rfl | ⟨granted, rfl⟩ := hi
  · exact nextSession_stepOnce c h t hexec
  · exact nextSession_execTick c granted h t hexec

/-- A control word among the events added is one more in the log. -/
theorem wordsTo_ne_of_added {l m : List OutEvent} {x : Word} (hx : .write .controlWord x ∈ added l (l ++ m)) :
    wordsTo .controlWord (l ++ m) ≠ wordsTo .controlWord l := by
  rw [added_append] at hx
  have hmem : x ∈ wordsTo .controlWord m := List.mem_filterMap.2 ⟨_, hx, rfl⟩
  intro hsame
  rw [wordsTo_append] at hsame
  exact List.ne_nil_of_mem hmem (List.append_cancel_left (hsame.trans (List.append_nil _).symm))

/-- A tick or a STEP that wrote the control word has renewed the exchange, and the engine is still busy. -/
theorem renewed_of_controlWord {i : Instr} {x : Word} (hi : brings c i) (h : Session s) (hbusy : s.xferState = .busy)
    (hwait : s.waitingForStatus = true) (hexec : exec i s = .next t)
    (hx : .write .controlWord x ∈ added s.log t.log) : t.xferState = .busy ∧ Renewed s.state s.toggle t := by
  obtain ⟨l, -, hlog⟩ := (stepLogs_exec hi hexec).events
  have hne : wordsTo .controlWord t.log ≠ wordsTo .controlWord s.log := by
    rw [hlog] at hx ⊢
    exact wordsTo_ne_of_added hx
  obtain ⟨k, rfl⟩ | ⟨u, k, -, hstep, rfl⟩ := exec_brings_cases hi hexec
  · exact absurd rfl hne
  · have hstepped : Session (setLock .stepped s) := session_setLock h nofun
    obtain hsame | ⟨hxfer, hrenewed⟩ := settle_announces (announces_stepParts hstepped hbusy hwait) hstep
    · exact absurd hsame hne
    · exact ⟨hxfer.trans hbusy, hrenewed.congr rfl rfl⟩

/-! ### The low byte of the codes (30_encoding R105) -/

/-- The low byte of both codes of a phase. -/
def echoByte (st : BitVec 3) (tog : Bool) : Byte :=
  if st = stInit then 0x0F else if st = stSendCommand then 0x01
  else if st = stCurveInfo then echoOf 0x02 tog else echoOf 0x04 tog

theorem lowByte_codes (h : Session s) (hbusy : s.xferState = .busy) (hwait : s.waitingForStatus = true) :
    lowByte s.nextModeStatus = echoByte s.state s.toggle ∧ lowByte s.expectedStatus = echoByte s.state s.toggle := by
  obtain hst | hst | hst | hst := phase_cases (h.busy hbusy).1
  · obtain ⟨hadv, hsteady⟩ := h.codesInit hbusy hst hwait
    rw [hadv, hsteady, hst]
    exact ⟨rfl, rfl⟩
  · obtain ⟨-, hadv, hsteady⟩ := h.codesSend hbusy hst
    rw [hadv, hsteady, hst]
    exact ⟨rfl, rfl⟩
  · obtain ⟨hadv, hsteady⟩ := h.codesCurve hbusy hst
    rw [hadv, hsteady, hst, (curveInfoCodes_eq_swBits _).1, (curveInfoCodes_eq_swBits _).2]
    exact ⟨lowByte_swBits .., lowByte_swBits ..⟩
  · obtain ⟨hadv, hsteady⟩ := h.codesSet hbusy hst
    rw [hadv, hsteady, hst, (setpointsCodes_eq_swBits _).1, (setpointsCodes_eq_swBits _).2]
    exact ⟨lowByte_swBits .., lowByte_swBits ..⟩

/-- No two exchanges in a row have the low byte of their codes in common. -/
theorem echoByte_ne_of_renewed (hst : st.toNat ≤ 3) (hphase : t.state.toNat ≤ 3) (h : Renewed st tog t) :
    echoByte t.state t.toggle ≠ echoByte st tog := by
  have hadvance : ∀ (v : BitVec 3) (a b : Bool), v.toNat ≤ 3 → (succState v).toNat ≤ 3 →
      echoByte (succState v) a ≠ echoByte v b := by decide
  have hflip : ∀ b : Bool, echoByte stCurveInfo (!b) ≠ echoByte stCurveInfo b ∧
      echoByte stSetpoints (!b) ≠ echoByte stSetpoints b := by decide
  cases h with
  | advances hnext =>
    rw [hnext] at hphase ⊢
    exact hadvance st t.toggle tog hst hphase
  | flips hdata hsame htoggle =>
    rw [hsame, htoggle]
    obtain rfl | rfl := hdata
    · exact (hflip tog).1
    · exact (hflip tog).2

/-- After an exchange is renewed the engine waits in a phase that is not `Init` (10_state R26). -/
theorem waits_of_renewed (h : Session t) (hbusy : t.xferState = .busy) (hst : st.toNat ≤ 3)
    (hrenewed : Renewed st tog t) : t.waitingForStatus = true := by
  have hsucc : ∀ v : BitVec 3, v.toNat ≤ 3 → succState v ≠ stInit := by decide
  refine h.waits hbusy ?_
  cases hrenewed with
  | advances hnext => exact hnext ▸ hsucc st hst
  | flips hdata hsame => obtain rfl | rfl := hdata <;> rw [hsame] <;> decide

end

/-- Settles O55: the exchange is renewed (`renewed_of_controlWord`), and with it the low byte of both codes. -/
theorem staleAnswersMatchNothing : Obligations.StaleAnswersMatchNothing := by
  intro s t c i sw x hi hsession hbusy hwait hexec hx hsw
  obtain ⟨hbusy', hrenewed⟩ := renewed_of_controlWord hi hsession hbusy hwait hexec hx
  have hsession' : Session t := session_of_brings hi hsession hexec
  have hphase : s.state.toNat ≤ 3 := (hsession.busy hbusy).1
  have hwait' : t.waitingForStatus = true := waits_of_renewed hsession' hbusy' hphase hrenewed
  have hne := echoByte_ne_of_renewed hphase (hsession'.busy hbusy').1 hrenewed
  obtain ⟨-, hold⟩ := lowByte_codes hsession hbusy hwait
  obtain ⟨hadv, hsteady⟩ := lowByte_codes hsession' hbusy' hwait'
  have hlow : lowByte sw = echoByte s.state s.toggle := (lowByte_eq_iff.2 hsw).trans hold
  exact classOf_nomatch_of_lowByte_ne (by rw [hlow, hadv]; exact hne.symm) (by rw [hlow, hsteady]; exact hne.symm)

end Sys2Proof.Machine
end

section
/-! The rows of the word serializer performed alone (45_word_serializer R250 to R259): each settles the operation a step
performs, whose branches are the equations of `sendNext`, `receive` and `appendPending`. -/

namespace Sys2Proof.Machine

section
variable {s : State} {v : Word}

theorem exec_txNext (ok : Bool) : exec (.txNext ok) s = settle s (sendNext ok s) := rfl
theorem exec_rxPush : exec (.rxPush v) s = settle s (receive v s) := rfl
theorem exec_spAppend : exec .spAppend s = settle s (appendPending s) := rfl

/-! ### TX.NEXT (R251, R252) -/

theorem sendNext_of_exhausted (ok : Bool) (hlen : s.txLen.toNat ≤ s.txPos.toNat) :
    sendNext ok s = .go { s with underflowFlag := true } :=
  if_neg (Nat.not_lt.2 hlen)

/-- With a word under the cursor: sent if the write succeeds, and otherwise nothing changes (43_step_sequencer R198). -/
theorem exec_txNext_of_word {w : Word} (hlen : s.txPos.toNat < s.txLen.toNat) (hw : cursorWord s = .ok w) :
    exec (.txNext true) s = .next { s with log := s.log ++ [.write .valueOut w], txPos := s.txPos + 1 } ∧
      exec (.txNext false) s = .next s := by
  rw [exec_txNext, exec_txNext, sendNext_true hlen hw, sendNext_false hlen hw]
  exact ⟨rfl, rfl⟩

/-! ### RX.PUSH (R255) -/

/-- A descriptor word for which there is no room fails the session. -/
theorem receive_of_full (hb : s.bufferResponse = true) (ht : s.rxTarget = .toDesc)
    (hfull : s.rxCap.toNat ≤ s.rxCount.toNat) : receive v s = .ended (failed .overflow 0 s) := by
  simp [receive, storeReceived, hb, ht, hfull, raiseFail]

/-- The bytes of the word stored, low byte first (20_memory R72). -/
theorem toNat_readByte_storeWord {m : Memory} {k : Nat} {w : Word} (h : Memory.wf m = true) (j : Fin 4) :
    (readByte (storeWord m k w) (4 * k + j.val)).toNat = w.toNat / 256 ^ j.val % 256 := by
  rw [readByte_storeWord_inside h, toNat_le32_getD]

/-- The state after an overflow, register by register (60_exceptions R310). -/
theorem failed_overflow : failed .overflow 0 s = { s with
    state := stFailed
    xferState := .done
    result := .failure
    failReason := .cause .overflow
    errorCode := 0
    message := .overflow } := rfl

end

/-- Settles O30: the word under the cursor is that of `cursorWord_of_desc` or `cursorWord_of_sp`. -/
theorem nextWordIsSentOrUnderflows : Obligations.NextWordIsSentOrUnderflows := by
  intro s ok
  refine ⟨fun hlen hsrc hpos => exec_txNext_of_word hlen (cursorWord_of_desc hsrc hpos),
    fun hlen hsrc hpos => exec_txNext_of_word hlen (cursorWord_of_sp hsrc hpos), fun hlen => ?_⟩
  rw [exec_txNext, sendNext_of_exhausted ok hlen, settle_go]

/-- Settles O31: the four branches of `receive`. -/
theorem receivedWordIsStoredOrOverflows : Obligations.ReceivedWordIsStoredOrOverflows := by
  intro s v hwf
  rw [exec_rxPush]
  refine ⟨fun hb ht hroom hdesc => ?_, fun hb ht hfull => ?_, fun hb ht => ?_, fun hb => ?_⟩
  · rw [receive_of_toDesc hb ht hroom hdesc, settle_go]
    exact ⟨_, rfl, rfl, toNat_readByte_storeWord hwf, fun _ => readByte_storeWord_outside hwf⟩
  · rw [receive_of_full hb ht hfull, settle_ended, failed_overflow]
  · rw [receive_of_toPending hb ht, settle_go]
  · rw [receive_of_noResponse hb, settle_go]

/-- Settles O32: the three branches of `appendPending`. -/
theorem pendingSetpointIsAppended : Obligations.PendingSetpointIsAppended := by
  intro s hwf
  rw [exec_spAppend]
  refine ⟨fun hp hroom => ?_, fun hp hfull => ?_, fun hp => ?_⟩
  · rw [appendPending_of_room hp hroom, settle_go]
    exact ⟨appended s, rfl, rfl, wordAt_storeWord hwf, fun _ => readByte_storeWord_outside hwf⟩
  · rw [appendPending_of_full hp hfull, settle_ended, failed_overflow]
  · rw [appendPending_of_none hp, settle_go]

/-- Settles O29: each row is its function of the cursor or of the receive side (`loadTxDesc`, `loadTxSp`, `armRxDesc`,
`armRxSp`). -/
theorem cursorRowsLoadAndArm : Obligations.CursorRowsLoadAndArm := fun _ => ⟨rfl, rfl, rfl, rfl⟩

end Sys2Proof.Machine
end

section
/-! The rows of the timeout and error-code detector performed alone (46_timeout_error R270 to R275): the counter's two
cases, the two outcomes of `checkExpired_cases`, and ERR.DEVICE as the class ERR of the classifier (R236). -/

namespace Sys2Proof.Machine

section
variable {s : State} {sw : Word}

theorem exec_tmoTick : exec .tmoTick s = .next (countLook s) := rfl
theorem exec_tmoExpire : exec .tmoExpire s = settle s (checkExpired s) := rfl
theorem exec_tmoArm : exec .tmoArm s = .next (armWait s) := rfl

/-! ### The timeout (R270, R271, R274) -/

theorem countLook_of_waiting (hwait : s.waitingForStatus = true) :
    countLook s = { s with timeoutCtr := s.timeoutCtr + 1 } :=
  if_pos hwait

theorem countLook_of_idle (hwait : s.waitingForStatus = false) : countLook s = s :=
  if_neg (Bool.eq_false_iff.1 hwait)

theorem checkExpired_of_above (habove : s.params.timeoutCycles < s.timeoutCtr.toNat) :
    checkExpired s = .ended (failed .timeout 0 s) :=
  (checkExpired_cases s).elim And.right fun ⟨hwithin, _⟩ => absurd habove (Nat.not_lt.2 hwithin)

theorem checkExpired_of_within (hwithin : s.timeoutCtr.toNat ≤ s.params.timeoutCycles) : checkExpired s = .go s :=
  (checkExpired_cases s).elim (fun ⟨habove, _⟩ => absurd habove (Nat.not_lt.2 hwithin)) And.right

/-- The state after a timeout, register by register (60_exceptions R310). -/
theorem failed_timeout : failed .timeout 0 s = { s with
    state := stFailed
    xferState := .done
    result := .failure
    failReason := .cause .timeout
    errorCode := 0
    message := .timeout } := rfl

/-! ### The device error (R275) -/

/-- The condition of ERR.DEVICE is the third test of the classifier (44_toggle_status_decode R236). -/
theorem deviceError_iff_classify_err : deviceError sw s = true ↔ classify sw s = .err := by
  rw [classify, classOf_err_iff]
  simp [deviceError, and_assoc]

/-- The condition of ERR.DEVICE over the number of the word. -/
theorem deviceError_iff : deviceError sw s = true ↔
    sw ≠ s.nextModeStatus ∧ sw ≠ s.expectedStatus ∧ sw.toNat % 256 = s.expectedStatus.toNat % 256 ∧
      sw.toNat / 256 % 256 ≠ 0 := by
  rw [deviceError_iff_classify_err, classify, classOf_err_iff, lowByte_eq_iff, ne_eq (codeByte sw),
    codeByte_eq_zero_iff]

theorem codeByte_eq_ofNat : codeByte sw = BitVec.ofNat 8 (sw.toNat / 256) :=
  BitVec.eq_of_toNat_eq (by rw [toNat_codeByte, BitVec.toNat_ofNat])

theorem exec_errDevice_of_error (herr : deviceError sw s = true) :
    exec (.errDevice sw) s = .next (failed .deviceError (codeByte sw) s) :=
  congrArg (settle s) (if_pos herr)

theorem exec_errDevice_of_other (hother : ¬ deviceError sw s = true) : exec (.errDevice sw) s = .next s :=
  congrArg (settle s) (if_neg hother)

/-- The state after a device error, register by register (60_exceptions R310). -/
theorem failed_deviceError (code : Byte) : failed .deviceError code s = { s with
    state := stFailed
    xferState := .done
    result := .failure
    failReason := .cause .deviceError
    errorCode := code
    message := .deviceError } := rfl

end

/-- Settles O34: the condition of ERR.DEVICE over the number of the word (`deviceError_iff`). -/
theorem deviceErrorFailsWithTheCode : Obligations.DeviceErrorFailsWithTheCode := by
  intro s sw
  refine ⟨fun hadv hsteady hlow hcode => ?_, fun hother => exec_errDevice_of_other fun herr => ?_⟩
  · rw [exec_errDevice_of_error (deviceError_iff.2 ⟨hadv, hsteady, hlow, hcode⟩), failed_deviceError, codeByte_eq_ofNat]
  · obtain ⟨hadv, hsteady, hlow, hcode⟩ := deviceError_iff.1 herr
    obtain h | h | h | h := hother
    · exact hadv h
    · exact hsteady h
    · exact h hlow
    · exact hcode h

/-- Settles O33: a counted look or none, a wait above the threshold or within it, and a wait armed. -/
theorem timerCountsArmsAndExpires : Obligations.TimerCountsArmsAndExpires := by
  intro s
  rw [exec_tmoTick, exec_tmoExpire, exec_tmoArm]
  refine ⟨fun hwait => ?_, fun hidle => ?_, fun habove => ?_, fun hwithin => ?_, rfl⟩
  · rw [countLook_of_waiting hwait]
  · rw [countLook_of_idle hidle]
  · rw [checkExpired_of_above habove, settle_ended, failed_timeout]
  · rw [checkExpired_of_within hwithin, settle_go]

end Sys2Proof.Machine
end

section
/-! The tick and the lock (47_cycle_scheduler R285 to R288). No part of a step touches the lock, so a step that has run
leaves it as `runStep` set it, ready to be given back; a granted tick is therefore STEP under the lock, with the lock
given back. -/

namespace Sys2Proof.Machine

/-! ### No part of a step touches the lock -/

/-- Where the part goes on or ends the step, the lock reads `l`. -/
def Flow.LeavesLock (l : Lock) (x : Flow) : Prop := x.Leads (fun u => u.lock = l) fun u => u.lock = l

section
variable {s : State} {l : Lock}

theorem leavesLock_actOnStatus (w : Word) (h : s.lock = l) : (actOnStatus w s).LeavesLock l := by
  obtain ⟨-, e⟩ | ⟨-, e⟩ | ⟨-, e⟩ | ⟨-, e⟩ := actOnStatus_cases w s <;> rw [e] <;> exact h

theorem leavesLock_part2 (w : Word) (h : s.lock = l) : (part2 w s).LeavesLock l := by
  obtain ⟨-, e⟩ | ⟨-, -, e⟩ | ⟨-, -, e⟩ := part2_cases w s <;> rw [e]
  · exact h
  · exact h
  · exact leavesLock_actOnStatus (s := { s with timeoutCtr := s.timeoutCtr + 1 }) w h

theorem leavesLock_receive (v : Word) (h : s.lock = l) : (receive v s).LeavesLock l := by
  obtain ⟨-, e⟩ | ⟨-, -, -, e⟩ | ⟨-, -, -, -, e⟩ | ⟨-, -, -, -, e⟩ | ⟨-, -, e⟩ := receive_cases v s <;> rw [e]
  · exact h
  · exact h
  · exact h
  · trivial
  · exact h

theorem leavesLock_armInit (h : s.lock = l) : (armInit s).LeavesLock l := by
  rw [armInit_eq]
  exact h

theorem leavesLock_armSendcmd (indexOk valueOk : Bool) (h : s.lock = l) :
    (armSendcmd indexOk valueOk s).LeavesLock l := by
  cases indexOk with
  | false => trivial
  | true =>
    cases valueOk with
    | false => trivial
    | true => rw [armSendcmd_true_true]; exact h

theorem leavesLock_armCurveinfo (h : s.lock = l) : (armCurveinfo s).LeavesLock l := by
  obtain ⟨-, -, e⟩ | ⟨-, -, e⟩ | ⟨-, e⟩ := armCurveinfo_cases s <;> rw [e] <;> exact h

theorem leavesLock_armSetpoints (h : s.lock = l) : (armSetpoints s).LeavesLock l := by
  cases hc : s.changedMode with
  | true => obtain ⟨-, e⟩ | ⟨-, -, e⟩ | e := armSetpoints_entry_cases hc <;> rw [e] <;> exact h
  | false => obtain ⟨-, e⟩ | ⟨-, -, e⟩ | ⟨-, -, e⟩ | e := armSetpoints_reentry_cases hc <;> rw [e] <;> exact h

theorem leavesLock_armFinished (h : s.lock = l) : (armFinished s).LeavesLock l := by
  obtain ⟨-, e⟩ | ⟨-, e⟩ | ⟨-, e⟩ | ⟨-, e⟩ := armFinished_cases s <;> rw [e] <;> exact h

theorem leavesLock_part4 (c : Cycle) (h : s.lock = l) : (part4 c s).LeavesLock l := by
  unfold part4
  split_ifs
  · exact leavesLock_armInit h
  · exact leavesLock_armSendcmd _ _ h
  · exact leavesLock_armCurveinfo h
  · exact leavesLock_armSetpoints h
  · exact leavesLock_armFinished h
  · exact h

theorem leavesLock_part5 (c : Cycle) (h : s.lock = l) : (part5 c s).LeavesLock l := by
  unfold part5
  split
  · obtain ⟨-, e⟩ | ⟨-, w, -, -, e⟩ | ⟨-, w, -, -, e⟩ | ⟨-, f, -, e⟩ := sendNext_cases c.valueWr s <;> rw [e]
    · exact h
    · exact h
    · trivial
    · trivial
  · exact h

theorem leavesLock_emitControl (ok : Bool) (h : s.lock = l) : (emitControl ok s).LeavesLock l := by
  obtain ⟨-, e⟩ | ⟨w, -, -, e⟩ | ⟨w, -, -, e⟩ := emitControl_cases ok s <;> rw [e]
  · exact h
  · exact h
  · trivial

theorem leavesLock_stepParts (c : Cycle) (h : s.lock = l) : (stepParts c s).LeavesLock l :=
  leads_andThen (leads_regReads (s := clearChanged s) h) fun _ hu =>
  leads_andThen (leavesLock_part2 c.status hu) fun _ hu =>
  leads_andThen (leavesLock_receive c.value hu) fun _ hu =>
  leads_andThen (leavesLock_part4 c hu) fun _ hu =>
  leads_andThen (leavesLock_part5 c hu) fun _ hu =>
  leavesLock_emitControl c.controlWr hu

end

/-! ### The step under the lock, and the tick around it -/

section
variable {s t : State} {c : Cycle} {g : Bool} {l : Lock}

/-- The lock is still held by the step that has run, committed or rolled back (R288). -/
theorem runStep_next_lock (h : runStep c s = .next t) : t.lock = .stepped := by
  obtain hlock | ⟨k, rfl⟩ := settle_next_of_leads (leavesLock_stepParts (s := setLock .stepped s) c rfl) h
  · exact hlock
  · exact setLock_lock .stepped s

theorem setLock_eq_self (h : s.lock = l) : setLock l s = s := by
  rw [← h]
  rfl

theorem giveBack_of_stepped (h : s.lock = .stepped) : giveBack s = setLock .free s := if_pos h

theorem giveBack_of_not_stepped (h : s.lock ≠ .stepped) : giveBack s = s := if_neg h

/-- The lock given back after a step, and the step's own end, are two readings of one outcome. -/
theorem afterStep_giveBack_of_runStep (h : runStep c s = .next t) :
    afterStep giveBack (runStep c s) = .next (setLock .free t) := by
  rw [h, afterStep_next, giveBack_of_stepped (runStep_next_lock h)]

theorem runStep_of_afterStep_giveBack (h : afterStep giveBack (runStep c s) = .next t) :
    runStep c s = .next (setLock .stepped t) := by
  cases hrun : runStep c s with
  | next u =>
    have hlock : u.lock = .stepped := runStep_next_lock hrun
    rw [hrun, afterStep_next, giveBack_of_stepped hlock] at h
    rw [← Host.Outcome.next.inj h]
    exact congrArg Host.Outcome.next (setLock_eq_self hlock).symm
  | fault e => rw [hrun] at h; cases h
  | refused r => rw [hrun] at h; cases h

theorem exec_step_underLock (hbusy : s.xferState = .busy) : exec (.step c) (setLock .held s) = runStep c s :=
  exec_step_of_held (s := setLock .held s) hbusy rfl

theorem exec_tick_granted (hbusy : s.xferState = .busy) (hlock : s.lock = .free) :
    exec (.tick c true) s = afterStep giveBack (runStep c s) :=
  exec_tick_of_free hbusy hlock

theorem exec_tick_notGranted (hbusy : s.xferState = .busy) (hlock : s.lock = .free) :
    exec (.tick c false) s = .next (setLock .waiting s) := by
  obtain ⟨hidle, -⟩ | ⟨-, -, hgranted, -⟩ | ⟨-, -, -, e⟩ | ⟨-, hheld, -⟩ := execTick_cases c false s
  · exact absurd hbusy hidle
  · cases hgranted
  · exact e
  · exact absurd hlock hheld

theorem exec_tick_overrun (hbusy : s.xferState = .busy) (hlock : s.lock ≠ .free) :
    exec (.tick c g) s = .refused .tickOverrun := by
  obtain ⟨hidle, -⟩ | ⟨-, hfree, -, -⟩ | ⟨-, hfree, -, -⟩ | ⟨-, -, e⟩ := execTick_cases c g s
  · exact absurd hbusy hidle
  · exact absurd hfree hlock
  · exact absurd hfree hlock
  · exact e

theorem exec_tick_outsideSession (hidle : s.xferState ≠ .busy) : exec (.tick c g) s = .next s := if_neg hidle

theorem exec_step_outsideSession (hidle : s.xferState ≠ .busy) : exec (.step c) s = .next s :=
  if_neg fun ⟨hbusy, _⟩ => hidle hbusy

theorem exec_lockAcq : exec (.lockAcq g) s = .next (askLock g s) := rfl

theorem exec_lockRel : exec .lockRel s = .next (giveBack s) := rfl

theorem askLock_of_waiting (hbusy : s.xferState = .busy) (hlock : s.lock = .waiting) :
    askLock true s = setLock .held s :=
  if_pos ⟨rfl, hbusy, hlock⟩

/-- LOCK.ACQ changes nothing where no step of a busy engine waits, or the lock is not granted (log 9). -/
theorem askLock_of_none (h : g = false ∨ s.xferState ≠ .busy ∨ s.lock ≠ .waiting) : askLock g s = s := by
  refine if_neg fun ⟨hgranted, hbusy, hwaiting⟩ => ?_
  obtain hdenied | hidle | hlock := h
  · cases hdenied.symm.trans hgranted
  · exact hidle hbusy
  · exact hlock hwaiting

end

/-- Settles O48: the tick around `runStep`, whose next state still holds the lock (`runStep_next_lock`), and the branches
of LOCK.ACQ and LOCK.REL. -/
theorem tickRunsOneStepUnderTheLock : Obligations.TickRunsOneStepUnderTheLock := by
  intro s c g
  refine ⟨fun hbusy hfree => ⟨fun t hstep => ?_, fun t htick => ?_, exec_tick_notGranted hbusy hfree⟩,
    exec_tick_overrun, fun hbusy hwaiting => ?_, fun hstepped => ?_, fun hnone => ?_, fun hother => ?_⟩
  · rw [exec_tick_granted hbusy hfree]
    exact afterStep_giveBack_of_runStep ((exec_step_underLock hbusy).symm.trans hstep)
  · rw [exec_tick_granted hbusy hfree] at htick
    exact (exec_step_underLock hbusy).trans (runStep_of_afterStep_giveBack htick)
  · rw [exec_lockAcq, askLock_of_waiting hbusy hwaiting, setLock]
  · rw [exec_lockRel, giveBack_of_stepped hstepped, setLock]
  · rw [exec_lockAcq, askLock_of_none hnone]
  · rw [exec_lockRel, giveBack_of_not_stepped hother]

/-- Settles O49: the guards of TICK and STEP; TICK.IDLE does nothing in any state. -/
theorem tickDoesNothingUnlessBusy : Obligations.TickDoesNothingUnlessBusy := fun _ _ _ hidle =>
  ⟨exec_tick_outsideSession hidle, rfl, exec_step_outsideSession hidle⟩

end Sys2Proof.Machine
end

section
/-! What the next state of an operation meets, for any property: an operation committed or rolled back, and the host's
operations where the property reads none of the registers only the host reads or writes. -/

namespace Sys2Proof.Machine

/-! ### A property of the next state -/

/-- Every next state of the outcome meets `P`. -/
def NextMeets (P : State → Prop) (x : Host.Outcome State Fault Refusal) : Prop := ∀ t, x = .next t → P t

section
variable {P : State → Prop} {s : State}

theorem meets_next (h : P s) : NextMeets P (.next s)
  | _, rfl => h

theorem meets_fault (e : Fault) : NextMeets P (.fault e) := by
  intro t ht
  cases ht

theorem meets_refused (r : Refusal) : NextMeets P (.refused r) := by
  intro t ht
  cases ht

/-- A settled operation leaves what its parts leave, or the state before it with another log (R198). -/
theorem meets_settle {x : Flow} (hrolledBack : ∀ l, P { s with log := l }) (hx : x.Leads P P) :
    NextMeets P (settle s x) := by
  intro t ht
  obtain h | ⟨l, rfl⟩ := settle_next_of_leads hx ht
  · exact h
  · exact hrolledBack l

theorem meets_afterStep {f : State → State} {x : Host.Outcome State Fault Refusal} (hf : ∀ u, P u → P (f u))
    (hx : NextMeets P x) : NextMeets P (afterStep f x) := by
  cases x with
  | next u => exact meets_next (hf u (hx u rfl))
  | fault e => exact meets_fault e
  | refused r => exact meets_refused r

end

/-! ### The host's operations -/

/-- `P` reads neither the answer nor the host's field values nor the published profile. -/
def IgnoresHostSide (P : State → Prop) : Prop :=
  ∀ u a f ps n, P u → P { u with answer := a, host := f, profile := ps, profileCount := n }

section
variable {P : State → Prop} {s : State}

theorem IgnoresHostSide.answering (hP : IgnoresHostSide P) (a : Answer) (h : P s) : P (answering a s) :=
  hP s a s.host s.profile s.profileCount h

theorem IgnoresHostSide.withHost (hP : IgnoresHostSide P) (f : HostFields) (h : P s) : P { s with host := f } :=
  hP s s.answer f s.profile s.profileCount h

theorem meets_answering (hP : IgnoresHostSide P) (a : Answer) (h : P s) : NextMeets P (.next (answering a s)) :=
  meets_next (hP.answering a h)

theorem meets_execSetName (hP : IgnoresHostSide P) (t : Option (List Byte)) (h : P s) :
    NextMeets P (execSetName t s) := by
  cases t with
  | none => exact meets_answering hP _ h
  | some b =>
    by_cases hlen : b.length < 22
    · rw [execSetName_of_fits hlen]
      split
      · exact meets_answering hP _ (hP.withHost _ h)
      · exact meets_answering hP _ h
    · rw [execSetName_of_tooLong (Nat.le_of_not_lt hlen)]
      exact meets_answering hP _ h

theorem meets_execXlenEncode (hP : IgnoresHostSide P) (n : BitVec 64) (dt : Real64) (h : P s) :
    NextMeets P (execXlenEncode n dt s) := by
  unfold execXlenEncode
  dsimp only
  split_ifs
  · exact meets_answering hP _ h
  · exact meets_answering hP _ h
  · exact meets_refused _
  · exact meets_refused _

theorem meets_execProject (hP : IgnoresHostSide P) (a : ProjectArgs) (h : P s) : NextMeets P (execProject a s) := by
  unfold execProject
  split_ifs
  · exact meets_fault _
  · exact meets_next (hP s s.answer s.host _ _ h)
  · exact meets_next h

theorem meets_rejectIf (hP : IgnoresHostSide P) (reason : ReqStatus) (r : Request) (h : P s) :
    NextMeets P (.next (rejectIf reason r s)) := by
  by_cases hr : checkRequest r s = reason
  · rw [next_rejectIf_of_eq hr]
    exact meets_answering hP _ h
  · rw [next_rejectIf_of_ne hr]
    exact meets_next h

theorem meets_execReqWrite (hP : IgnoresHostSide P) (id count : Half) (xlenOk : Bool) (h : P s)
    (hstart : s.xferState ≠ .busy → P (startSession (loadWrite id count s))) :
    NextMeets P (execReqWrite id count xlenOk s) := by
  by_cases haccepted : checkRequest (.write id count xlenOk) s = .accepted
  · obtain ⟨hidle, -⟩ := checkRequest_write_accepted_iff.1 haccepted
    rw [execReqWrite_of_accepted haccepted]
    exact meets_answering hP _ (hstart hidle)
  · rw [execReqWrite_of_rejected rfl haccepted]
    exact meets_answering hP _ h

theorem meets_execReqRead (hP : IgnoresHostSide P) (id : Half) (h : P s)
    (hstart : s.xferState ≠ .busy → P (startSession (loadRead id s))) : NextMeets P (execReqRead id s) := by
  by_cases haccepted : checkRequest (.read id) s = .accepted
  · obtain ⟨hidle, -⟩ := checkRequest_read_accepted_iff.1 haccepted
    rw [execReqRead_of_accepted haccepted]
    exact meets_answering hP _ (hstart hidle)
  · rw [execReqRead_of_rejected rfl haccepted]
    exact meets_answering hP _ h

end

end Sys2Proof.Machine
end

section
/-! A write session runs (60_exceptions R312): the curve it sends is written by no event of the surroundings. The host's
ports are closed (42_requests R188), no reception is armed (10_state R28), and the arms of a write session write neither
memory. -/

namespace Sys2Proof.Machine

/-- A state of a write session that holds the curve of `s`, with no reception armed. -/
structure SendsCurveOf (s u : State) : Prop where
  dir : u.dir = .write
  noResponse : u.bufferResponse = false
  desc : u.desc = s.desc
  sp : u.sp = s.sp
  spCount : u.spCount = s.spCount

/-- The part of a step leaves the curve of `s` where it goes on and where it ends the step. -/
def Flow.KeepsCurveOf (s : State) (x : Flow) : Prop := x.Leads (SendsCurveOf s) (SendsCurveOf s)

section
variable {s u : State}

/-- A write session receives nothing (10_state R28). -/
theorem Session.sendsCurve (h : Session s) (hbusy : s.xferState = .busy) (hd : s.dir = .write) : SendsCurveOf s s where
  dir := hd
  noResponse := Bool.eq_false_iff.2 fun hb => nomatch hd.symm.trans ((h.response hbusy).1 hb).1
  desc := rfl
  sp := rfl
  spCount := rfl

theorem SendsCurveOf.failed (h : SendsCurveOf s u) (k : Cause) (code : Byte) : SendsCurveOf s (failed k code u) :=
  { h with }

theorem SendsCurveOf.setLock (h : SendsCurveOf s u) (l : Lock) : SendsCurveOf s (setLock l u) := { h with }

/-- The response a data phase asks for is none in a write session (43_step_sequencer R208, R210). -/
theorem SendsCurveOf.dataCodes (h : SendsCurveOf s u) (adv steady : Word) : SendsCurveOf s (dataCodes adv steady u) :=
  { h with noResponse := decide_eq_false fun hread => nomatch h.dir.symm.trans hread }

/-! ### The parts of a step -/

theorem keepsCurve_actOnStatus (w : Word) (h : SendsCurveOf s u) : (actOnStatus w u).KeepsCurveOf s := by
  obtain ⟨-, e⟩ | ⟨-, e⟩ | ⟨-, e⟩ | ⟨-, e⟩ := actOnStatus_cases w u <;> rw [e]
  · exact { h with }
  · exact h
  · exact h.failed _ _
  · exact h

theorem keepsCurve_part2 (w : Word) (h : SendsCurveOf s u) : (part2 w u).KeepsCurveOf s := by
  have hlook : SendsCurveOf s { u with timeoutCtr := u.timeoutCtr + 1 } := { h with }
  obtain ⟨-, e⟩ | ⟨-, -, e⟩ | ⟨-, -, e⟩ := part2_cases w u <;> rw [e]
  · exact h
  · exact hlook.failed _ _
  · exact keepsCurve_actOnStatus w hlook

theorem keepsCurve_receive (v : Word) (h : SendsCurveOf s u) : (receive v u).KeepsCurveOf s := by
  rw [receive_of_noResponse h.noResponse]
  exact h

theorem keepsCurve_armInit (h : SendsCurveOf s u) : (armInit u).KeepsCurveOf s := by
  rw [armInit_eq]
  exact { h with }

theorem keepsCurve_armSendcmd (indexOk valueOk : Bool) (h : SendsCurveOf s u) :
    (armSendcmd indexOk valueOk u).KeepsCurveOf s := by
  cases indexOk with
  | false => trivial
  | true =>
    cases valueOk with
    | false => trivial
    | true => rw [armSendcmd_true_true]; exact { h with }

theorem keepsCurve_armCurveinfo (h : SendsCurveOf s u) : (armCurveinfo u).KeepsCurveOf s := by
  have hentered : SendsCurveOf s (flipToggle (loadTxDesc u)) := { h with }
  have hreentered : SendsCurveOf s (flipToggle u) := { h with }
  obtain ⟨-, -, e⟩ | ⟨-, hread, -⟩ | ⟨-, e⟩ := armCurveinfo_cases u
  · rw [e]; exact hentered.dataCodes _ _
  · exact nomatch h.dir.symm.trans hread
  · rw [e]; exact hreentered.dataCodes _ _

/-- The arm clears `sp_count` and appends a setpoint in a read session only (43_step_sequencer R210). -/
theorem keepsCurve_armSetpoints (h : SendsCurveOf s u) : (armSetpoints u).KeepsCurveOf s := by
  have hentered : SendsCurveOf s (loadTxSp (setToggle false u)) := { h with }
  have hreentered : SendsCurveOf s (flipToggle u) := { h with }
  cases hc : u.changedMode with
  | true => rw [armSetpoints_of_entry_write hc h.dir]; exact hentered.dataCodes _ _
  | false => rw [armSetpoints_of_reentry_write hc h.dir]; exact hreentered.dataCodes _ _

theorem keepsCurve_armFinished (h : SendsCurveOf s u) : (armFinished u).KeepsCurveOf s := by
  rw [armFinished_of_write h.dir]
  exact { h with }

theorem keepsCurve_part4 (c : Cycle) (h : SendsCurveOf s u) : (part4 c u).KeepsCurveOf s := by
  unfold part4
  split_ifs
  · exact keepsCurve_armInit h
  · exact keepsCurve_armSendcmd _ _ h
  · exact keepsCurve_armCurveinfo h
  · exact keepsCurve_armSetpoints h
  · exact keepsCurve_armFinished h
  · exact h.failed _ _

theorem keepsCurve_part5 (c : Cycle) (h : SendsCurveOf s u) : (part5 c u).KeepsCurveOf s := by
  unfold part5
  split
  · obtain ⟨-, e⟩ | ⟨-, w, -, -, e⟩ | ⟨-, w, -, -, e⟩ | ⟨-, f, -, e⟩ := sendNext_cases c.valueWr u <;> rw [e]
    · exact { h with }
    · exact { h with }
    · trivial
    · trivial
  · exact h

theorem keepsCurve_emitControl (ok : Bool) (h : SendsCurveOf s u) : (emitControl ok u).KeepsCurveOf s := by
  obtain ⟨-, e⟩ | ⟨w, -, -, e⟩ | ⟨w, -, -, e⟩ := emitControl_cases ok u <;> rw [e]
  · exact h
  · exact { h with }
  · trivial

theorem keepsCurve_stepParts (c : Cycle) (h : SendsCurveOf s u) : (stepParts c u).KeepsCurveOf s :=
  have hcleared : SendsCurveOf s (clearChanged u) := { h with }
  leads_andThen (leads_regReads hcleared) fun _ hu =>
  leads_andThen (keepsCurve_part2 c.status hu) fun _ hu =>
  leads_andThen (keepsCurve_receive c.value hu) fun _ hu =>
  leads_andThen (keepsCurve_part4 c hu) fun _ hu =>
  leads_andThen (keepsCurve_part5 c hu) fun _ hu =>
  keepsCurve_emitControl c.controlWr hu

/-! ### The step under the lock, and the tick -/

theorem meetsCurve_runStep (c : Cycle) (h : SendsCurveOf s u) : NextMeets (SendsCurveOf s) (runStep c u) :=
  meets_settle (fun _ => { h with }) (keepsCurve_stepParts c (h.setLock .stepped))

theorem meetsCurve_stepOnce (c : Cycle) (h : SendsCurveOf s u) : NextMeets (SendsCurveOf s) (stepOnce c u) := by
  obtain ⟨-, -, e⟩ | ⟨-, e⟩ := stepOnce_cases c u <;> rw [e]
  · exact meetsCurve_runStep c h
  · exact meets_next h

theorem SendsCurveOf.giveBack (h : SendsCurveOf s u) : SendsCurveOf s (giveBack u) := by
  obtain ⟨-, e⟩ | ⟨-, e⟩ := giveBack_cases u <;> rw [e]
  · exact h.setLock _
  · exact h

theorem SendsCurveOf.askLock (h : SendsCurveOf s u) (granted : Bool) : SendsCurveOf s (askLock granted u) := by
  obtain ⟨-, -, -, e⟩ | ⟨-, e⟩ := askLock_cases granted u <;> rw [e]
  · exact h.setLock _
  · exact h

theorem meetsCurve_execTick (c : Cycle) (granted : Bool) (h : SendsCurveOf s u) :
    NextMeets (SendsCurveOf s) (execTick c granted u) := by
  obtain ⟨-, e⟩ | ⟨-, -, -, e⟩ | ⟨-, -, -, e⟩ | ⟨-, -, e⟩ := execTick_cases c granted u <;> rw [e]
  · exact meets_next h
  · exact meets_afterStep (fun _ => SendsCurveOf.giveBack) (meetsCurve_runStep c (h.setLock .held))
  · exact meets_next (h.setLock .waiting)
  · exact meets_refused _

/-! ### The events of the surroundings -/

theorem sendsCurve_ignoresHostSide (s : State) : IgnoresHostSide (SendsCurveOf s) := fun _ _ _ _ _ h => { h with }

theorem meetsCurve_execRecord (f : Fields) (pad0 pad1 : Byte) (h : SendsCurveOf s u) (hbusy : u.xferState = .busy) :
    NextMeets (SendsCurveOf s) (execRecord f pad0 pad1 u) := by
  rw [execRecord_of_busy hbusy]
  exact meets_next h

theorem meetsCurve_execPosEncode (k : Half) (p : Real64) (h : SendsCurveOf s u) (hbusy : u.xferState = .busy) :
    NextMeets (SendsCurveOf s) (execPosEncode k p u) := by
  obtain e | e := execPosEncode_of_busy hbusy k p <;> rw [e]
  · exact meets_next h
  · exact meets_refused _

/-- Every operation the surroundings can cause, but `rst`, leaves the curve a busy write session sends. -/
theorem meetsCurve_exec (h : SendsCurveOf s u) (hbusy : u.xferState = .busy) :
    (i : Instr) → outside i = true → i ≠ .reset → NextMeets (SendsCurveOf s) (exec i u)
  | .record f pad0 pad1, _, _ => meetsCurve_execRecord f pad0 pad1 h hbusy
  | .unpack, _, _ => meets_answering (sendsCurve_ignoresHostSide s) _ h
  | .setName t, _, _ => meets_execSetName (sendsCurve_ignoresHostSide s) t h
  | .blocksize _, _, _ => meets_answering (sendsCurve_ignoresHostSide s) _ h
  | .dump, _, _ => meets_answering (sendsCurve_ignoresHostSide s) _ h
  | .xlenEncode n dt, _, _ => meets_execXlenEncode (sendsCurve_ignoresHostSide s) n dt h
  | .xlenDecode _ _, _, _ => meets_answering (sendsCurve_ignoresHostSide s) _ h
  | .posEncode k p, _, _ => meetsCurve_execPosEncode k p h hbusy
  | .posDecode _, _, _ => meets_answering (sendsCurve_ignoresHostSide s) _ h
  | .project a, _, _ => meets_execProject (sendsCurve_ignoresHostSide s) a h
  | .reqWrite id count xlenOk, _, _ =>
    meets_execReqWrite (sendsCurve_ignoresHostSide s) id count xlenOk h fun hidle => absurd hbusy hidle
  | .reqRead id, _, _ => meets_execReqRead (sendsCurve_ignoresHostSide s) id h fun hidle => absurd hbusy hidle
  | .rejBusy r, _, _ => meets_rejectIf (sendsCurve_ignoresHostSide s) _ r h
  | .rejInvalidId r, _, _ => meets_rejectIf (sendsCurve_ignoresHostSide s) _ r h
  | .rejInvalidDuration r, _, _ => meets_rejectIf (sendsCurve_ignoresHostSide s) _ r h
  | .rejInvalidCount r, _, _ => meets_rejectIf (sendsCurve_ignoresHostSide s) _ r h
  | .sinkRead, _, _ => meets_answering (sendsCurve_ignoresHostSide s) _ h
  | .step c, _, _ => meetsCurve_stepOnce c h
  | .classify _, _, _ => meets_answering (sendsCurve_ignoresHostSide s) _ h
  | .tick c granted, _, _ => meetsCurve_execTick c granted h
  | .tickIdle, _, _ => meets_next h
  | .lockAcq granted, _, _ => meets_next (h.askLock granted)
  | .lockRel, _, _ => meets_next h.giveBack
  | .reset, _, hreset => absurd rfl hreset

end

/-- Settles O56: the session sends the curve it holds (`Session.sendsCurve`), and every event of the surroundings leaves
it so (`meetsCurve_exec`). -/
theorem writeSessionNeverTouchesTheCurve : Obligations.WriteSessionNeverTouchesTheCurve := by
  intro s t i hsession hbusy hd hout hreset hexec
  have h : SendsCurveOf s t := meetsCurve_exec (hsession.sendsCurve hbusy hd) hbusy i hout hreset t hexec
  exact ⟨h.desc, h.sp, h.spCount⟩

end Sys2Proof.Machine
end

section
/-! The failure entry performed alone (60_exceptions R310). -/

namespace Sys2Proof.Machine

theorem exec_fail (k : Cause) (code : Byte) (s : State) : exec (.fail k code) s = .next (failed k code s) := rfl

/-- Settles O35: the failure entry is `failed`; its message is that of each of the five causes (R302). -/
theorem failureEntryIsTheRule : Obligations.FailureEntryIsTheRule := by
  intro s k c
  rw [exec_fail]
  cases k <;> rfl

end Sys2Proof.Machine
end

section
/-! One step per tick (70_reset_and_hazards R350, 47_cycle_scheduler R290). Only the operations of the scheduler and
`rst` write the lock; of these a tick alone makes a step due, STEP uses a due step up, and LOCK.ACQ moves one from
waiting to held. -/

namespace Sys2Proof.Machine

/-- The step of a tick is due: it waits for the lock, or holds it (log 9). -/
def StepDue (s : State) : Prop := s.lock = .waiting ∨ s.lock = .held

/-- No step is due in a next state unless one was due in `s`. -/
def NoNewStep (s : State) : Host.Outcome State Fault Refusal → Prop := NextMeets fun u => StepDue u → StepDue s

section
variable {s : State} {l : Lock}

/-! ### The parts of a step performed alone -/

theorem leavesLock_regWrite (p : OutPort) (ok : Bool) (v : Word) (h : s.lock = l) :
    (regWrite p ok v s).LeavesLock l := by
  cases ok with
  | true => exact h
  | false => trivial

theorem leavesLock_checkExpired (h : s.lock = l) : (checkExpired s).LeavesLock l := by
  obtain ⟨-, e⟩ | ⟨-, e⟩ := checkExpired_cases s <;> rw [e] <;> exact h

theorem leavesLock_appendPending (h : s.lock = l) : (appendPending s).LeavesLock l := by
  obtain ⟨-, e⟩ | ⟨-, -, e⟩ | ⟨-, -, e⟩ := appendPending_cases s <;> rw [e] <;> exact h

theorem leavesLock_sendNext (ok : Bool) (h : s.lock = l) : (sendNext ok s).LeavesLock l := by
  obtain ⟨-, e⟩ | ⟨-, w, -, -, e⟩ | ⟨-, w, -, -, e⟩ | ⟨-, f, -, e⟩ := sendNext_cases ok s <;> rw [e]
  · exact h
  · exact h
  · trivial
  · trivial

theorem leavesLock_ite {p : Prop} [Decidable p] {x : Flow} (hx : x.LeavesLock l) (h : s.lock = l) :
    (if p then x else .go s).LeavesLock l := by
  split
  · exact hx
  · exact h

theorem leavesLock_dataWord (st : BitVec 3) (src : TxSrc) (target : RxTarget) (w : Word) (ok : Bool) (h : s.lock = l) :
    (dataWord st src target w ok s).LeavesLock l := by
  unfold dataWord
  split
  · exact leavesLock_ite (leavesLock_sendNext ok h) h
  · exact leavesLock_ite (leavesLock_receive w h) h

theorem leavesLock_swAdv (st : BitVec 3) (sw : Word) (h : s.lock = l) : (swAdv st sw s).LeavesLock l := by
  cases hhere : swHere st .adv sw s <;> rw [swAdv, hhere] <;> exact h

theorem leavesLock_swErr (st : BitVec 3) (sw : Word) (h : s.lock = l) : (swErr st sw s).LeavesLock l :=
  leavesLock_ite (x := raiseFail .deviceError (codeByte sw) s) h h

theorem leavesLock_swNomatch (st : BitVec 3) (sw : Word) (h : s.lock = l) : (swNomatch st sw s).LeavesLock l :=
  leavesLock_ite (x := .ended s) h h

/-! ### The operations -/

/-- An operation that leaves the lock makes no step due. -/
theorem noNewStep_settle {x : Flow} (hx : x.LeavesLock s.lock) : NoNewStep s (settle s x) := by
  have hdue : ∀ u : State, u.lock = s.lock → StepDue u → StepDue s := fun u hu => by simp only [StepDue, hu, imp_self]
  exact meets_settle (fun _ => id) (leads_mono hx hdue hdue)

theorem noNewStep_emitRow (here : Bool) (w : Word) (ok : Bool) : NoNewStep s (emitRow here w ok s) :=
  noNewStep_settle (leavesLock_ite (leavesLock_emitControl ok rfl) rfl)

/-- Whatever a row does with the state without writing the lock. -/
theorem noNewStep_next {t : State} (h : t.lock = s.lock) : NoNewStep s (.next t) :=
  noNewStep_settle (x := .go t) h

theorem stepDue_ignoresHostSide (s : State) : IgnoresHostSide fun u => StepDue u → StepDue s := fun _ _ _ _ _ => id

theorem noNewStep_execRecord (f : Fields) (pad0 pad1 : Byte) : NoNewStep s (execRecord f pad0 pad1 s) := by
  by_cases hbusy : s.xferState = .busy
  · rw [execRecord_of_busy hbusy]
    exact noNewStep_next rfl
  · rw [execRecord_of_notBusy hbusy]
    exact noNewStep_next rfl

theorem noNewStep_hostSetpoint (k : Nat) (w : Word) : NoNewStep s (hostSetpoint k w s) := by
  unfold hostSetpoint
  split_ifs
  · exact noNewStep_next rfl
  · exact meets_fault _
  · exact noNewStep_next rfl

theorem noNewStep_execPosEncode (k : Half) (p : Real64) : NoNewStep s (execPosEncode k p s) := by
  unfold execPosEncode
  dsimp only
  split_ifs
  · exact noNewStep_hostSetpoint _ _
  · exact meets_refused _
  · exact meets_refused _

theorem noNewStep_execStepUnknown : NoNewStep s (execStepUnknown s) := by
  unfold execStepUnknown
  split
  · exact noNewStep_next rfl
  · exact noNewStep_next rfl

theorem countLook_lock (s : State) : (countLook s).lock = s.lock := by
  cases hwait : s.waitingForStatus with
  | true => rw [countLook_of_waiting hwait]
  | false => rw [countLook_of_idle hwait]

/-- STEP uses up the step that was due (R290). -/
theorem noNewStep_stepOnce (c : Cycle) : NoNewStep s (stepOnce c s) := by
  obtain ⟨-, hheld, -⟩ | ⟨-, e⟩ := stepOnce_cases c s
  · exact fun _ _ _ => .inr hheld
  · rw [e]
    exact noNewStep_next rfl

/-- The lock is granted only to a step that waits for it (R288). -/
theorem noNewStep_askLock (granted : Bool) : NoNewStep s (.next (askLock granted s)) := by
  obtain ⟨-, -, hwaiting, -⟩ | ⟨-, e⟩ := askLock_cases granted s
  · exact fun _ _ _ => .inl hwaiting
  · rw [e]
    exact noNewStep_next rfl

theorem noNewStep_giveBack : NoNewStep s (.next (giveBack s)) := by
  obtain ⟨-, e⟩ | ⟨-, e⟩ := giveBack_cases s <;> rw [e]
  · exact meets_next fun hdue => hdue.elim nofun nofun
  · exact noNewStep_next rfl

/-- No operation but a tick makes a step due: one arm per row of spec/opcode_table.json, in the table's order. -/
theorem noNewStep_exec (s : State) : (i : Instr) → (∀ c g, i ≠ .tick c g) → NoNewStep s (exec i s)
  | .cwInit w ok, _ => noNewStep_emitRow _ w ok
  | .cwSendcmdW m ok, _ | .cwSendcmdR m ok, _ => noNewStep_emitRow _ (cwBits m 0 true) ok
  | .cwCurveinfoW m t ok, _ | .cwCurveinfoR m t ok, _ => noNewStep_emitRow _ (cwBits m 1 t) ok
  | .cwSetpointsW m t ok, _ | .cwSetpointsR m t ok, _ => noNewStep_emitRow _ (cwBits m 2 t) ok
  | .swInitAdv, _ => noNewStep_settle (leavesLock_swAdv _ _ rfl)
  | .swInitSteady, _ => noNewStep_next rfl
  | .swInitErr _ _, _ => noNewStep_settle (leavesLock_swErr _ _ rfl)
  | .swInitNomatch _, _ => noNewStep_settle (leavesLock_swNomatch _ _ rfl)
  | .swSendcmdAdv, _ => noNewStep_settle (leavesLock_swAdv _ _ rfl)
  | .swSendcmdSteady, _ => noNewStep_next rfl
  | .swSendcmdErr _ _, _ => noNewStep_settle (leavesLock_swErr _ _ rfl)
  | .swSendcmdNomatch _, _ => noNewStep_settle (leavesLock_swNomatch _ _ rfl)
  | .swCurveinfoAdv _, _ => noNewStep_settle (leavesLock_swAdv _ _ rfl)
  | .swCurveinfoSteady _, _ => noNewStep_next rfl
  | .swCurveinfoErr _ _ _, _ => noNewStep_settle (leavesLock_swErr _ _ rfl)
  | .swCurveinfoNomatch _, _ => noNewStep_settle (leavesLock_swNomatch _ _ rfl)
  | .swSetpointsAdv _, _ => noNewStep_settle (leavesLock_swAdv _ _ rfl)
  | .swSetpointsSteady _, _ => noNewStep_next rfl
  | .swSetpointsErr _ _ _, _ => noNewStep_settle (leavesLock_swErr _ _ rfl)
  | .swSetpointsNomatch _, _ => noNewStep_settle (leavesLock_swNomatch _ _ rfl)
  | .iw _ ok, _ => noNewStep_settle (leavesLock_ite (leavesLock_regWrite _ ok _ rfl) rfl)
  | .bw _ ok, _ => noNewStep_settle (leavesLock_ite (leavesLock_regWrite _ ok _ rfl) rfl)
  | .dw d ok, _ => noNewStep_settle (leavesLock_dataWord _ _ _ d ok rfl)
  | .pw p ok, _ => noNewStep_settle (leavesLock_dataWord _ _ _ p ok rfl)
  | .record f pad0 pad1, _ => noNewStep_execRecord f pad0 pad1
  | .pack _, _ => noNewStep_next rfl
  | .unpack, _ => noNewStep_next rfl
  | .setName t, _ => meets_execSetName (stepDue_ignoresHostSide s) t id
  | .blocksize _, _ => noNewStep_next rfl
  | .dump, _ => noNewStep_next rfl
  | .xlenEncode n dt, _ => meets_execXlenEncode (stepDue_ignoresHostSide s) n dt id
  | .xlenDecode _ _, _ => noNewStep_next rfl
  | .posEncode k p, _ => noNewStep_execPosEncode k p
  | .posDecode _, _ => noNewStep_next rfl
  | .project a, _ => meets_execProject (stepDue_ignoresHostSide s) a id
  | .reqWrite curve count xlenOk, _ => meets_execReqWrite (stepDue_ignoresHostSide s) curve count xlenOk id fun _ => id
  | .reqRead curve, _ => meets_execReqRead (stepDue_ignoresHostSide s) curve id fun _ => id
  | .sessionInit, _ => noNewStep_next rfl
  | .rejBusy r, _ => meets_rejectIf (stepDue_ignoresHostSide s) _ r id
  | .rejInvalidId r, _ => meets_rejectIf (stepDue_ignoresHostSide s) _ r id
  | .rejInvalidDuration r, _ => meets_rejectIf (stepDue_ignoresHostSide s) _ r id
  | .rejInvalidCount r, _ => meets_rejectIf (stepDue_ignoresHostSide s) _ r id
  | .sinkRead, _ => noNewStep_next rfl
  | .step c, _ => noNewStep_stepOnce c
  | .stepInit, _ => noNewStep_settle (leavesLock_ite (leavesLock_armInit rfl) rfl)
  | .stepSendcmd indexOk valueOk, _ => noNewStep_settle (leavesLock_ite (leavesLock_armSendcmd indexOk valueOk rfl) rfl)
  | .stepCurveinfo, _ => noNewStep_settle (leavesLock_ite (leavesLock_armCurveinfo rfl) rfl)
  | .stepSetpoints, _ => noNewStep_settle (leavesLock_ite (leavesLock_armSetpoints rfl) rfl)
  | .stepFinished, _ => noNewStep_settle (leavesLock_ite (leavesLock_armFinished rfl) rfl)
  | .stepUnknown, _ => noNewStep_execStepUnknown
  | .toggleSet1, _ => noNewStep_next rfl
  | .toggleFlipCurveinfo, _ => noNewStep_next rfl
  | .toggleReset0, _ => noNewStep_next rfl
  | .toggleFlipSetpoints, _ => noNewStep_next rfl
  | .classify _, _ => noNewStep_next rfl
  | .txLoadDesc, _ => noNewStep_next rfl
  | .txLoadSp, _ => noNewStep_next rfl
  | .txNext ok, _ => noNewStep_settle (leavesLock_sendNext ok rfl)
  | .rxArmDesc, _ => noNewStep_next rfl
  | .rxArmSp, _ => noNewStep_next rfl
  | .rxPush vin, _ => noNewStep_settle (leavesLock_receive vin rfl)
  | .spAppend, _ => noNewStep_settle (leavesLock_appendPending rfl)
  | .tmoTick, _ => noNewStep_next (countLook_lock s)
  | .tmoExpire, _ => noNewStep_settle (leavesLock_checkExpired rfl)
  | .tmoArm, _ => noNewStep_next rfl
  | .errDevice sw, _ =>
    noNewStep_settle (leavesLock_ite (x := raiseFail .deviceError (codeByte sw) s) rfl rfl)
  | .fail _ _, _ => noNewStep_next rfl
  | .tick c g, hne => absurd rfl (hne c g)
  | .tickIdle, _ => noNewStep_next rfl
  | .lockAcq granted, _ => noNewStep_askLock granted
  | .lockRel, _ => noNewStep_giveBack
  | .reset, _ => meets_next fun hdue => hdue.elim nofun nofun

end

section
variable {s t : State} {c : Cycle} {g : Bool}

/-! ### STEP and TICK -/

theorem exec_step_of_notHeld (hlock : s.lock ≠ .held) : exec (.step c) s = .next s :=
  if_neg fun ⟨_, hheld⟩ => hlock hheld

/-- After STEP of a busy engine the lock no longer holds a due step. -/
theorem exec_step_next_lock (hbusy : s.xferState = .busy) (h : exec (.step c) s = .next t) : t.lock ≠ .held := by
  obtain ⟨-, -, e⟩ | ⟨hnone, e⟩ := stepOnce_cases c s
  · rw [runStep_next_lock (e.symm.trans h)]
    nofun
  · obtain rfl := Host.Outcome.next.inj (e.symm.trans h)
    exact fun hheld => hnone ⟨hbusy, hheld⟩

/-- A granted step has given the lock back when its tick ends (R288). -/
theorem afterStep_giveBack_next_lock (h : afterStep giveBack (runStep c s) = .next t) : t.lock = .free := by
  have hfree := afterStep_giveBack_of_runStep (runStep_of_afterStep_giveBack h)
  rw [← Host.Outcome.next.inj (hfree.symm.trans h), setLock_lock]

/-- The tick of an engine with the lock free leaves its step due only where the lock is not granted (R288). -/
theorem exec_tick_next_lock (hlock : s.lock = .free) (h : exec (.tick c g) s = .next t) :
    t.lock = if s.xferState = .busy ∧ g = false then .waiting else .free := by
  by_cases hbusy : s.xferState = .busy
  · cases g with
    | true =>
      rw [exec_tick_granted hbusy hlock] at h
      rw [if_neg (fun hboth => nomatch hboth.2), afterStep_giveBack_next_lock h]
    | false =>
      rw [exec_tick_notGranted hbusy hlock] at h
      rw [if_pos ⟨hbusy, rfl⟩, ← Host.Outcome.next.inj h, setLock_lock]
  · rw [exec_tick_outsideSession hbusy] at h
    rw [if_neg (fun hboth => hbusy hboth.1), ← Host.Outcome.next.inj h, hlock]

end

/-- Settles O60: STEP runs only under the lock (`exec_step_next_lock`), every row but TICK makes no step due
(`noNewStep_exec`), and TICK leaves one due only without the grant (`exec_tick_next_lock`). -/
theorem oneStepPerTick : Obligations.OneStepPerTick := by
  intro s t c d i g
  refine ⟨exec_step_of_notHeld, fun hbusy hstep => ?_, fun hne hexec => noNewStep_exec s i hne t hexec,
    exec_tick_next_lock⟩
  have hlock : t.lock ≠ .held := exec_step_next_lock hbusy hstep
  exact ⟨hlock, exec_step_of_notHeld hlock⟩

end Sys2Proof.Machine
end
